-- ==== Sys2Proof/Word.lean ====
section
/-! DEFINITION. The value types of the DES engine: the widths of 00_scope.md rule R6, and the input ports of
10_state.md rule R20 as one record. Every value is an unsigned fixed-width bit vector (R8, R11): bit `w-1` is the
most significant. -/

namespace Sys2Proof

/-- A plaintext or ciphertext block (R6, BLOCK_W). -/
abbrev Block := BitVec 64

/-- A master key, parity bits included (R6, KEY_W). -/
abbrev MasterKey := BitVec 64

/-- The output of PC-1, and the concatenation `C ++ D` (R6, PK_W). -/
abbrev PermutedKey := BitVec 56

/-- One of the key halves C and D (R6, HALFKEY_W). -/
abbrev KeyHalf := BitVec 28

/-- A round key (R6, RK_W). -/
abbrev RoundKey := BitVec 48

/-- One of the block halves L and R (R6, HALF_W). -/
abbrev HalfBlock := BitVec 32

/-- The output of the expansion (R6, EXP_W). -/
abbrev ExpandedHalf := BitVec 48

/-- An S-box input (R6, SEXTET_W). -/
abbrev Sextet := BitVec 6

/-- An S-box output (R6, NIBBLE_W). -/
abbrev Nibble := BitVec 4

/-- A sequencer state code (R21, R63). -/
abbrev StateCode := BitVec 5

/-- The host control word `CTRL = rst ++ start` (R61). -/
abbrev Ctrl := BitVec 2

/-- The status word `STATUS = done ++ busy` (R62). -/
abbrev Status := BitVec 2

/-- The values on the four input ports during one clock cycle, as the edge that closes the cycle sees them
(R20, R48). `clk` is not a field: one step of the machine is one rising edge of `clk`. -/
structure Pins where
  rst     : Bool
  start   : Bool
  blockIn : Block
  keyIn   : MasterKey
  deriving DecidableEq, Repr, Inhabited

end Sys2Proof
end

