-- ==== Sys2Proof/Syntax.lean ====
section
/-! DEFINITION. The instructions: one constructor for each row of spec/opcode_table.json, in the table's order. The
engine has no instruction stream (30_encoding.md): the table's rows are the three host commands that `CTRL` selects
each cycle (R61) and the micro-ops that the sequencer state code selects (R63). -/

namespace Sys2Proof

inductive Instr where
  /-- Row NOP, CTRL `00`: the sequencer performs the micro-op of `STATE` with `start = 0` (R61, R200). -/
  | nop
  /-- Row START, CTRL `01`: accept in IDLE or DONE, otherwise act as NOP (R61, R190, R198). -/
  | start
  /-- Row RESET, CTRL `1x`: reset. The operand is the ignored bit 0, the level of `start` (R61, R401). -/
  | reset (startBit : BitVec 1)
  /-- Row IDLE, code 0: ACCEPT when `start = 1`, HOLD when `start = 0` (R190, R195). -/
  | idle
  /-- Row IP, code 1 (R191). -/
  | ip
  /-- Row ROUND1, code 2, shift 1 (R192). -/
  | round1
  /-- Row ROUND2, code 3, shift 1 (R192). -/
  | round2
  /-- Row ROUND3, code 4, shift 2 (R192). -/
  | round3
  /-- Row ROUND4, code 5, shift 2 (R192). -/
  | round4
  /-- Row ROUND5, code 6, shift 2 (R192). -/
  | round5
  /-- Row ROUND6, code 7, shift 2 (R192). -/
  | round6
  /-- Row ROUND7, code 8, shift 2 (R192). -/
  | round7
  /-- Row ROUND8, code 9, shift 2 (R192). -/
  | round8
  /-- Row ROUND9, code 10, shift 1 (R192). -/
  | round9
  /-- Row ROUND10, code 11, shift 2 (R192). -/
  | round10
  /-- Row ROUND11, code 12, shift 2 (R192). -/
  | round11
  /-- Row ROUND12, code 13, shift 2 (R192). -/
  | round12
  /-- Row ROUND13, code 14, shift 2 (R192). -/
  | round13
  /-- Row ROUND14, code 15, shift 2 (R192). -/
  | round14
  /-- Row ROUND15, code 16, shift 2 (R192). -/
  | round15
  /-- Row ROUND16, code 17, shift 1 (R192). -/
  | round16
  /-- Row SWAP, code 18 (R193). -/
  | swap
  /-- Row FP, code 19 (R194). -/
  | fp
  /-- Row DONE, code 20: ACCEPT when `start = 1`, HOLD when `start = 0` (R190, R195). -/
  | done
  /-- Row RESERVED, encoding `10101`: code 21 (R197). -/
  | reserved21 (code : StateCode)
  /-- Row RESERVED, encoding `1011x`: codes 22 and 23 (R197). -/
  | reserved22 (code : StateCode)
  /-- Row RESERVED, encoding `11xxx`: codes 24 to 31 (R197). -/
  | reserved24 (code : StateCode)
  deriving DecidableEq, Repr

end Sys2Proof
end

