-- ==== Sys2Proof/WellFormed.lean ====
section
/-! DEFINITION. Which terms of `Instr` stand for a row of the opcode table: a RESERVED term carries the whole state
code, which must lie in its row's range (R63, R66). Every other term is well formed by its type. -/

namespace Sys2Proof

/-- The code of a RESERVED term is one its row of the table encodes: `10101`, `1011x` or `11xxx`. -/
def WellFormed : Instr → Bool
  | .reserved21 code => code == 21
  | .reserved22 code => code == 22 || code == 23
  | .reserved24 code => decide (24 ≤ code.toNat)
  | .nop | .start | .reset _ => true
  | .idle | .ip | .swap | .fp | .done => true
  | .round1 | .round2 | .round3 | .round4 | .round5 | .round6 | .round7 | .round8 => true
  | .round9 | .round10 | .round11 | .round12 | .round13 | .round14 | .round15 | .round16 => true

end Sys2Proof
end

