-- ==== Sys2Proof/Decode.lean ====
section
/-! DEFINITION. The two decoders of 30_encoding.md, and the encoder. An instruction word of this engine is either the
2-bit host control word (format `host_ctrl` of the opcode table, R61) or the 5-bit sequencer state code (format
`fsm_state`, R63). The two formats share their bit patterns, so a word has a meaning only beside its format. Both
decoders are total (R65). -/

namespace Sys2Proof

/-- The two formats of spec/opcode_table.json. -/
inductive Format where
  | hostCtrl
  | fsmState
  deriving DecidableEq, Repr

/-- Why a number is no instruction word. Raised by `decode` alone, never by a step: the ports and the register have
exactly the format's width (R67). -/
inductive DecodeError where
  /-- A number that does not fit the 2 bits of `CTRL`. -/
  | ctrlWordTooWide (w : Nat)
  /-- A number that does not fit the 5 bits of `STATE`. -/
  | stateCodeTooWide (w : Nat)
  deriving DecidableEq, Repr

/-- What the decoder answers: the instruction, or the rejection's name. -/
inductive Decoded where
  | instr (i : Instr)
  | rejected (e : DecodeError)
  deriving DecidableEq, Repr

/-- An instruction word: its format and its bits, bit 0 the least significant. -/
structure EncodedWord where
  format : Format
  bits   : Nat
  deriving DecidableEq, Repr

/-- `CTRL` is always 2 bits and `STATE` always 5 (R67). -/
def formatWidth : Format → Nat
  | .hostCtrl => 2
  | .fsmState => 5

/-- The host-control decoder, total on the 2 bits of `CTRL` (R61, R65): bit 1 is `rst`, bit 0 is `start`. -/
def decodeCtrl (w : Ctrl) : Instr :=
  if w = 0b00#2 then .nop
  else if w = 0b01#2 then .start
  else .reset (w.extractLsb' 0 1)

/-- The sequencer's decoder, total on the 5 bits of `STATE` (R63, R65). -/
def decodeStateCode (c : StateCode) : Instr :=
  match c.toNat with
  | 0 => .idle
  | 1 => .ip
  | 2 => .round1
  | 3 => .round2
  | 4 => .round3
  | 5 => .round4
  | 6 => .round5
  | 7 => .round6
  | 8 => .round7
  | 9 => .round8
  | 10 => .round9
  | 11 => .round10
  | 12 => .round11
  | 13 => .round12
  | 14 => .round13
  | 15 => .round14
  | 16 => .round15
  | 17 => .round16
  | 18 => .swap
  | 19 => .fp
  | 20 => .done
  | 21 => .reserved21 c
  | 22 => .reserved22 c
  | 23 => .reserved22 c
  | _ => .reserved24 c

/-- The decoder on any number: a number wider than its format is rejected by name, every other number is an
instruction. -/
def decode (f : Format) (w : Nat) : Decoded :=
  match f with
  | .hostCtrl =>
    if w < 4 then .instr (decodeCtrl (BitVec.ofNat 2 w)) else .rejected (.ctrlWordTooWide w)
  | .fsmState =>
    if w < 32 then .instr (decodeStateCode (BitVec.ofNat 5 w)) else .rejected (.stateCodeTooWide w)

/-- The format whose rows the opcode table gives `nbits` bits. A row of `host_ctrl` has 2 bits and a row of `fsm_state`
5. Counted in whole bytes both have 8, and then the word is read as a state code (log entry 2). -/
def tableFormat (nbits : Nat) : Format :=
  if nbits ≤ 2 then .hostCtrl else .fsmState

/-- The instruction the decoder reads from an opcode-table word of `nbits` bits, if it does not reject it. -/
def decodeTableWord (nbits w : Nat) : Option Instr :=
  match decode (tableFormat nbits) w with
  | .instr i => some i
  | .rejected _ => none

/-- The encoder: the word of a well-formed instruction, from the tables of R61 and R63. -/
def encode : Instr → EncodedWord
  | .nop => ⟨.hostCtrl, 0b00⟩
  | .start => ⟨.hostCtrl, 0b01⟩
  | .reset startBit => ⟨.hostCtrl, 0b10 + startBit.toNat⟩
  | .idle => ⟨.fsmState, 0b00000⟩
  | .ip => ⟨.fsmState, 0b00001⟩
  | .round1 => ⟨.fsmState, 0b00010⟩
  | .round2 => ⟨.fsmState, 0b00011⟩
  | .round3 => ⟨.fsmState, 0b00100⟩
  | .round4 => ⟨.fsmState, 0b00101⟩
  | .round5 => ⟨.fsmState, 0b00110⟩
  | .round6 => ⟨.fsmState, 0b00111⟩
  | .round7 => ⟨.fsmState, 0b01000⟩
  | .round8 => ⟨.fsmState, 0b01001⟩
  | .round9 => ⟨.fsmState, 0b01010⟩
  | .round10 => ⟨.fsmState, 0b01011⟩
  | .round11 => ⟨.fsmState, 0b01100⟩
  | .round12 => ⟨.fsmState, 0b01101⟩
  | .round13 => ⟨.fsmState, 0b01110⟩
  | .round14 => ⟨.fsmState, 0b01111⟩
  | .round15 => ⟨.fsmState, 0b10000⟩
  | .round16 => ⟨.fsmState, 0b10001⟩
  | .swap => ⟨.fsmState, 0b10010⟩
  | .fp => ⟨.fsmState, 0b10011⟩
  | .done => ⟨.fsmState, 0b10100⟩
  | .reserved21 code => ⟨.fsmState, code.toNat⟩
  | .reserved22 code => ⟨.fsmState, code.toNat⟩
  | .reserved24 code => ⟨.fsmState, code.toNat⟩

/-- The instruction an encoded word stands for. -/
def decodeWord (e : EncodedWord) : Decoded := decode e.format e.bits

end Sys2Proof
end

