-- ==== Sys2Proof/Machine/Operands.lean ====
section
/-! DEFINITION. Operand assembly (30_encoding.md section 3): the slices and concatenations the datapath forms its operands
with, each written once, and the bit and byte views of a port value (R9, R43, R60). The engine has no immediates and no
addressing. -/

namespace Sys2Proof.Machine

/-- DES bit `n` of a `w`-bit value, `1 ≤ n ≤ w`: bit `w - n`, so that DES bit 1 is the most significant (R9). -/
def desBit {w : Nat} (v : BitVec w) (n : Nat) : Bool := v.getLsbD (w - n)

/-- Byte `k` of the source's bit string: bits `[63-8k : 56-8k]` of a port value, the first byte the most significant
(R43). -/
def portByte (v : Block) (k : Fin 8) : BitVec 8 := v.extractLsb' (56 - 8 * k.val) 8

/-- A port value assembled from the eight bytes of the source's bit string, the first byte first (R43). -/
def portOfBytes (b : Vector (BitVec 8) 8) : Block :=
  b[0] ++ b[1] ++ b[2] ++ b[3] ++ b[4] ++ b[5] ++ b[6] ++ b[7]

/-- The half split `L = w[63:32]`, `R = w[31:0]` (R181). -/
def ipsplit (w : Block) : HalfBlock × HalfBlock := (w.extractLsb' 32 32, w.extractLsb' 0 32)

/-- `C0 = PK[55:28]` and `D0 = PK[27:0]` (R161). -/
def splitPermutedKey (pk : PermutedKey) : KeyHalf × KeyHalf := (pk.extractLsb' 28 28, pk.extractLsb' 0 28)

/-- Sextet `B_j = X[53-6j : 48-6j]`, j = 1..8, under the index `j - 1` (R120). -/
def sextet (x : ExpandedHalf) (j : Fin 8) : Sextet := x.extractLsb' (42 - 6 * j.val) 6

/-- `row = B[5] ++ B[0]`, the first bit most significant (R120). -/
def sextetRow (b : Sextet) : BitVec 2 := b.extractLsb' 5 1 ++ b.extractLsb' 0 1

/-- `col = B[4:1]` (R120). -/
def sextetCol (b : Sextet) : BitVec 4 := b.extractLsb' 1 4

/-- The ROM address `row ++ col` of a sextet (R41, R120). -/
def romAddress (b : Sextet) : BitVec 6 := sextetRow b ++ sextetCol b

end Sys2Proof.Machine
end

