-- ==== Sys2Proof/Machine/Datapath.lean ====
section
/-! DEFINITION. The combinational units, leaves first (R2): PermutationEngine (R100), BitwiseXor (R110),
SubstitutionBoxBank (R121), ExpansionStage (R141), the round function f (R150), the key rotations (R162) and PC-2
(R165). None has an encoding of its own (R70); the micro-ops use them. -/

namespace Sys2Proof.Machine

/-- PermutationEngine `Perm(T, W_in, v)`: output DES bit `n` is input DES bit `T[n]` (R100). -/
def perm {wIn wOut : Nat} (T : Table wIn wOut) (v : BitVec wIn) : BitVec wOut :=
  (BitVec.ofBoolListBE (T.entries.map (desBit v))).cast (by rw [List.length_map, T.length_eq])

/-- IPERM (R105). -/
def ipperm (v : Block) : Block := perm tableIP v

/-- FPERM (R106). -/
def fpperm (v : Block) : Block := perm tableFP v

/-- BitwiseXor, for `W = 48` and `W = 32` (R110). -/
def bitwiseXor {w : Nat} (a b : BitVec w) : BitVec w := a ^^^ b

/-- The word at address `a` of the ROM of an S-box: `S[row][col]` with `row = a[5:4]` and `col = a[3:0]` (R41). -/
def romWord (S : SBox) (a : BitVec 6) : Nibble :=
  let row := (a.extractLsb' 4 2).toFin
  let col := (a.extractLsb' 0 4).toFin
  BitVec.ofNatLT S.rows[row][col] (S.bounded row col)

/-- `SBoxROM(j, a)`, j = 1..8 under the index `j - 1` (R41). -/
def sboxROM (j : Fin 8) (a : BitVec 6) : Nibble := romWord (sboxTable j) a

/-- The output nibble `N_j` of the bank for the input `X` (R121). -/
def sboxNibble (x : ExpandedHalf) (j : Fin 8) : Nibble := sboxROM j (romAddress (sextet x j))

/-- SubstitutionBoxBank: `S = N_1 ++ N_2 ++ ... ++ N_8` (R121). -/
def sbox (x : ExpandedHalf) : HalfBlock :=
  sboxNibble x 0 ++ sboxNibble x 1 ++ sboxNibble x 2 ++ sboxNibble x 3 ++
    sboxNibble x 4 ++ sboxNibble x 5 ++ sboxNibble x 6 ++ sboxNibble x 7

/-- EXPAND (R141). -/
def expand (r : HalfBlock) : ExpandedHalf := perm tableE r

/-- FeistelRoundFunction `f(r, k)` in its four steps (R150). -/
def feistelF (r : HalfBlock) (k : RoundKey) : HalfBlock :=
  perm tableP (sbox (bitwiseXor (expand r) k))

/-- Feistel round `(r, xor_32(l, f(r, k)))` (R182). -/
def feistel (l r : HalfBlock) (k : RoundKey) : HalfBlock × HalfBlock :=
  (r, bitwiseXor l (feistelF r k))

/-- PC1SPLIT (R161). -/
def pc1split (key : MasterKey) : KeyHalf × KeyHalf := splitPermutedKey (perm tablePC1 key)

/-- ROTL28 (R162): the leading `n` bits move to the trailing end. -/
def rotl28 (v : KeyHalf) (n : Nat) : KeyHalf := v.rotateLeft n

/-- ROUNDKEY (R165). -/
def roundkey (c d : KeyHalf) : RoundKey := perm tablePC2 (c ++ d)

end Sys2Proof.Machine
end

