-- ==== Sys2Proof/Machine/Cipher.lean ====
section
/-! DEFINITION. The functions that give an operation its meaning: KeyScheduler (R166) and the pipeline (R180). The engine
never calls them: it computes the same values one micro-op at a time (R167, R196). -/

namespace Sys2Proof.Machine

/-- The round keys formed from a pair of key halves, one for each rotation amount in order (R166). -/
def keyschedFrom (c d : KeyHalf) : List Nat → List RoundKey
  | [] => []
  | n :: ns => roundkey (rotl28 c n) (rotl28 d n) :: keyschedFrom (rotl28 c n) (rotl28 d n) ns

/-- KeyScheduler: `[K_1, ..., K_16]` (R166). -/
def keysched (key : MasterKey) : List RoundKey :=
  keyschedFrom (pc1split key).1 (pc1split key).2 roundShifts

/-- The key halves `(C[i], D[i])` of rule R166, i = 0..16. -/
def keyHalves (key : MasterKey) : Nat → KeyHalf × KeyHalf
  | 0 => pc1split key
  | i + 1 => (rotl28 (keyHalves key i).1 (roundShift (i + 1)), rotl28 (keyHalves key i).2 (roundShift (i + 1)))

/-- The Feistel rounds with the given round keys, in order, from `(l, r)` (R180). -/
def feistelRounds (l r : HalfBlock) : List RoundKey → HalfBlock × HalfBlock
  | [] => (l, r)
  | k :: ks => feistelRounds (feistel l r k).1 (feistel l r k).2 ks

/-- The final swap, right half first (R183), and FP. -/
def preOutput (lr : HalfBlock × HalfBlock) : Block := lr.2 ++ lr.1

/-- The pipeline of R180 with a given key sequence in place of `keysched(key)` (R185). -/
def desCore (block : Block) (ks : List RoundKey) : Block :=
  fpperm (preOutput (feistelRounds (ipsplit (ipperm block)).1 (ipsplit (ipperm block)).2 ks))

/-- Encryption (R180). -/
def desEncrypt (block : Block) (key : MasterKey) : Block := desCore block (keysched key)

/-- The block halves `(L[i], R[i])` of rule R180, i = 0..16. -/
def roundHalves (block : Block) (key : MasterKey) (i : Nat) : HalfBlock × HalfBlock :=
  feistelRounds (ipsplit (ipperm block)).1 (ipsplit (ipperm block)).2 ((keysched key).take i)

end Sys2Proof.Machine
end

