-- ==== Sys2Proof/Config.lean ====
section
/-! DEFINITION. What the spec leaves free. The engine has no parameter (R7) and no configuration (R25), so this file
holds only free values: constants without a body, of which nothing can be proved. -/

namespace Sys2Proof.Config

/-- What the host drives in a cycle for which State lists no input: anything (R48: the host is the other agent, and
no rule binds it). The argument counts the cycles, so that each such cycle has a draw of its own. Log entry 1. -/
opaque freePins : Nat → Pins

/-- `STATE` after power-up and before the first reset: any 5-bit value, the reserved codes included (R35, R404). -/
opaque powerUpSTATE : StateCode

/-- `BLK` after power-up: unspecified (R35). -/
opaque powerUpBLK : Block

/-- `KEY` after power-up: unspecified (R35). -/
opaque powerUpKEY : MasterKey

/-- `L` after power-up: unspecified (R35). -/
opaque powerUpL : HalfBlock

/-- `R` after power-up: unspecified (R35). -/
opaque powerUpR : HalfBlock

/-- `C` after power-up: unspecified (R35). -/
opaque powerUpC : KeyHalf

/-- `D` after power-up: unspecified (R35). -/
opaque powerUpD : KeyHalf

/-- `RES` after power-up: unspecified (R35). -/
opaque powerUpRES : Block

end Sys2Proof.Config
end

