-- ==== Sys2Proof/Machine/State.lean ====
section
/-! DEFINITION. The machine's state, plain data: the eight registers of 10_state.md (317 bits, R32), the values on the
input ports, and what the host will drive next. The constant tables are no state (R31), and there is no memory (R40),
no register file (R32), no flag register (R24) and no mode (R311). -/

namespace Sys2Proof.Machine

/-- The state between two rising edges of `clk`. -/
structure State where
  /-- The sequencer's state code, in the part of a program counter (R21). -/
  STATE : StateCode
  /-- The captured plaintext block (R28). -/
  BLK : Block
  /-- The captured master key (R28). -/
  KEY : MasterKey
  /-- The left block half (R26). -/
  L : HalfBlock
  /-- The right block half (R26). -/
  R : HalfBlock
  /-- The left key half (R27). -/
  C : KeyHalf
  /-- The right key half (R27). -/
  D : KeyHalf
  /-- The result register, which drives the `result` port (R29). -/
  RES : Block
  /-- What the host drives on the input ports in the current cycle (R20, R48). -/
  pins : Pins
  /-- What the host will drive in the cycles after this one, the next one first. The model's own field: the spec's
  host is free, and a state may list any finite future of the ports (log entry 1). -/
  inputs : List Pins
  /-- The model's own field: how many draws of `Config.freePins` lie behind, advanced by every step (log entry 1). -/
  cycle : Nat
  deriving DecidableEq, Repr

/-- The engine raises no exception, and no micro-op can fail (R300), so there is no fault. The source's error
conditions are excluded by the widths of the ports and by the fixed tables (R301 to R304). -/
inductive Fault where
  deriving DecidableEq, Repr

/-- Why the model gives an instruction no meaning. -/
inductive Refusal where
  /-- Raised by an arm of `exec` for an instruction that has no meaning yet. Safe: the machine stops where the hardware
  goes on. No arm of `exec` raises it. -/
  | notModelled (mnemonic : String)
  deriving DecidableEq, Repr

/-- Right after an edge with `rst = 1`: every register at the value of R34. The ports carry 0, the value R68 gives them
before a program drives them, and no input is listed (log entries 1 and 3). -/
def State.reset : State where
  STATE := 0b00000#5
  BLK := 0x0000000000000000#64
  KEY := 0x0000000000000000#64
  L := 0x00000000#32
  R := 0x00000000#32
  C := 0x0000000#28
  D := 0x0000000#28
  RES := 0x0000000000000000#64
  pins := { rst := false, start := false, blockIn := 0x0000000000000000#64, keyIn := 0x0000000000000000#64 }
  inputs := []
  cycle := 0

/-- After power-up and before the first reset: every register is a free value, and so are the ports (R35, R404). -/
def State.powerUp : State where
  STATE := Config.powerUpSTATE
  BLK := Config.powerUpBLK
  KEY := Config.powerUpKEY
  L := Config.powerUpL
  R := Config.powerUpR
  C := Config.powerUpC
  D := Config.powerUpD
  RES := Config.powerUpRES
  pins := Config.freePins 0
  inputs := []
  cycle := 1

end Sys2Proof.Machine
end

