-- ==== Sys2Proof/Machine/Ops.lean ====
section
/-! DEFINITION. The register transfers of the engine, one for each micro-op of 46_pipeline.md section 2, and reset. Each
names the registers it writes; every other register keeps its value. Shared by the meanings of the instructions.

The engine has no exceptions, no interrupts, no trap entry and no return (R300, R306, R308): nothing saves a state and
nothing restores one. Reset is the only event that breaks into an operation, and it saves nothing (R308, R402). The
engine has no memory and no load or store (R40). -/

namespace Sys2Proof.Machine

/-- Reset: every register takes its value of R34 (R400). The ports belong to the host and stay. -/
def resetEdge (s : State) : State :=
  { s with STATE := 0, BLK := 0, KEY := 0, L := 0, R := 0, C := 0, D := 0, RES := 0 }

/-- Micro-op ACCEPT: `BLK <- block_in; KEY <- key_in; STATE <- 1` (R190). -/
def acceptEdge (s : State) : State :=
  { s with BLK := s.pins.blockIn, KEY := s.pins.keyIn, STATE := 1 }

/-- Micro-op HOLD: no register changes (R195). -/
def holdEdge (s : State) : State := s

/-- What IDLE and DONE do at an edge: ACCEPT when `start = 1`, HOLD when `start = 0` (R190, R195). -/
def idleEdge (start : Bool) (s : State) : State :=
  if start then acceptEdge s else holdEdge s

/-- Micro-op IP: the halves of `ipperm(BLK)` and of `PC-1(KEY)`; `STATE <- 2` (R191). -/
def ipEdge (s : State) : State :=
  { s with
    L := (ipsplit (ipperm s.BLK)).1
    R := (ipsplit (ipperm s.BLK)).2
    C := (pc1split s.KEY).1
    D := (pc1split s.KEY).2
    STATE := 2 }

/-- The round key of round `i`, formed from the halves before the round's edge; it is combinational (R30, R192). -/
def currentRoundKey (i : Nat) (s : State) : RoundKey :=
  roundkey (rotl28 s.C (roundShift i)) (rotl28 s.D (roundShift i))

/-- Micro-op ROUNDi: rotate the key halves, form `K_i`, do one Feistel round; `STATE <- i + 2` (R192). -/
def roundEdge (i : Nat) (s : State) : State :=
  { s with
    L := (feistel s.L s.R (currentRoundKey i s)).1
    R := (feistel s.L s.R (currentRoundKey i s)).2
    C := rotl28 s.C (roundShift i)
    D := rotl28 s.D (roundShift i)
    STATE := BitVec.ofNat 5 (i + 2) }

/-- Micro-op SWAP: `L <- R; R <- L; STATE <- 19`, both from the values before the edge (R193). -/
def swapEdge (s : State) : State := { s with L := s.R, R := s.L, STATE := 19 }

/-- Micro-op FP: `RES <- fpperm(L ++ R); STATE <- 20` (R194). -/
def fpEdge (s : State) : State := { s with RES := fpperm (s.L ++ s.R), STATE := 20 }

/-- Micro-op RESERVED: `STATE <- 0`, no other register, whatever `start` is (R197). -/
def reservedEdge (s : State) : State := { s with STATE := 0 }

/-- The micro-op that `STATE` selects at an edge with `rst = 0`, as the step function of R200 lists them. -/
def sequencerEdge (start : Bool) (s : State) : State :=
  if s.STATE.toNat = 0 ∨ s.STATE.toNat = 20 then idleEdge start s
  else if s.STATE.toNat = 1 then ipEdge s
  else if 2 ≤ s.STATE.toNat ∧ s.STATE.toNat ≤ 17 then roundEdge (s.STATE.toNat - 1) s
  else if s.STATE.toNat = 18 then swapEdge s
  else if s.STATE.toNat = 19 then fpEdge s
  else reservedEdge s

/-- The host control word `CTRL = rst ++ start` of the current cycle (R61). -/
def ctrl (s : State) : Ctrl := BitVec.ofBool s.pins.rst ++ BitVec.ofBool s.pins.start

/-- The host command that the current cycle's control word selects (R61): what the engine samples at the edge. -/
def fetch (s : State) : Instr := decodeCtrl (ctrl s)

/-- What the ports carry in the next cycle: the first listed input, or anything when none is listed (R48; log
entry 1). -/
def nextPins (s : State) : Pins :=
  match s.inputs with
  | p :: _ => p
  | [] => Config.freePins s.cycle

/-- The host's side of an edge: the ports go on to the next cycle. No register changes. -/
def advancePins (s : State) : State :=
  { s with pins := nextPins s, inputs := s.inputs.tail, cycle := s.cycle + 1 }

/-- A host control word on the ports of the current cycle, the data ports as they are. -/
def placeCtrl (s : State) (w : Nat) : State :=
  { s with pins := { s.pins with rst := w.testBit 1, start := w.testBit 0 } }

/-- A state code in the sequencer, with `rst = 0` so that its micro-op runs at the next edge. -/
def placeStateCode (s : State) (w : Nat) : State :=
  { s with STATE := BitVec.ofNat 5 w, pins := { s.pins with rst := false } }

/-- An opcode-table word of `nbits` bits where the next step finds it (log entry 2). -/
def placeTableWord (s : State) (nbits w : Nat) : State :=
  match tableFormat nbits with
  | .hostCtrl => placeCtrl s w
  | .fsmState => placeStateCode s w

end Sys2Proof.Machine
end

