-- ==== Sys2Proof/Machine/HostCommand.lean ====
section
/-! DEFINITION. The meanings of the host commands, one definition for each `CTRL` row of the opcode table
(46_pipeline.md section 3, R61). Each is one whole edge: under NOP and START the sequencer performs the micro-op of
`STATE`. -/

namespace Sys2Proof.Machine

/-- NOP, CTRL `00`: the step of R200 with `start = 0`. -/
def execNop (s : State) : Host.Outcome State Fault Refusal := .next (sequencerEdge false s)

/-- START, CTRL `01`: ACCEPT in IDLE and DONE (R190); in every other state it acts as NOP (R198). -/
def execStart (s : State) : Host.Outcome State Fault Refusal :=
  if s.STATE.toNat = 0 ∨ s.STATE.toNat = 20 then .next (acceptEdge s) else .next (sequencerEdge false s)

/-- RESET, CTRL `1x` (R400, R401). -/
def execReset (s : State) : Host.Outcome State Fault Refusal := .next (resetEdge s)

end Sys2Proof.Machine
end

