-- ==== Sys2Proof/Machine/Sequencer.lean ====
section
/-! DEFINITION. The meanings of the sequencer's micro-ops, one definition for each state code row of the opcode table
(R190 to R197). None can fail (R300). Each is the micro-op at an edge with `rst = 0`; the two edges that look at `start`
read it from the port. -/

namespace Sys2Proof.Machine

/-- IDLE, code 0: ACCEPT when `start = 1` (R190), HOLD when `start = 0` (R195). -/
def execIdle (s : State) : Host.Outcome State Fault Refusal := .next (idleEdge s.pins.start s)

/-- IP, code 1 (R191). -/
def execIp (s : State) : Host.Outcome State Fault Refusal := .next (ipEdge s)

/-- ROUND1, code 2 (R192). -/
def execRound1 (s : State) : Host.Outcome State Fault Refusal := .next (roundEdge 1 s)

/-- ROUND2, code 3 (R192). -/
def execRound2 (s : State) : Host.Outcome State Fault Refusal := .next (roundEdge 2 s)

/-- ROUND3, code 4 (R192). -/
def execRound3 (s : State) : Host.Outcome State Fault Refusal := .next (roundEdge 3 s)

/-- ROUND4, code 5 (R192). -/
def execRound4 (s : State) : Host.Outcome State Fault Refusal := .next (roundEdge 4 s)

/-- ROUND5, code 6 (R192). -/
def execRound5 (s : State) : Host.Outcome State Fault Refusal := .next (roundEdge 5 s)

/-- ROUND6, code 7 (R192). -/
def execRound6 (s : State) : Host.Outcome State Fault Refusal := .next (roundEdge 6 s)

/-- ROUND7, code 8 (R192). -/
def execRound7 (s : State) : Host.Outcome State Fault Refusal := .next (roundEdge 7 s)

/-- ROUND8, code 9 (R192). -/
def execRound8 (s : State) : Host.Outcome State Fault Refusal := .next (roundEdge 8 s)

/-- ROUND9, code 10 (R192). -/
def execRound9 (s : State) : Host.Outcome State Fault Refusal := .next (roundEdge 9 s)

/-- ROUND10, code 11 (R192). -/
def execRound10 (s : State) : Host.Outcome State Fault Refusal := .next (roundEdge 10 s)

/-- ROUND11, code 12 (R192). -/
def execRound11 (s : State) : Host.Outcome State Fault Refusal := .next (roundEdge 11 s)

/-- ROUND12, code 13 (R192). -/
def execRound12 (s : State) : Host.Outcome State Fault Refusal := .next (roundEdge 12 s)

/-- ROUND13, code 14 (R192). -/
def execRound13 (s : State) : Host.Outcome State Fault Refusal := .next (roundEdge 13 s)

/-- ROUND14, code 15 (R192). -/
def execRound14 (s : State) : Host.Outcome State Fault Refusal := .next (roundEdge 14 s)

/-- ROUND15, code 16 (R192). -/
def execRound15 (s : State) : Host.Outcome State Fault Refusal := .next (roundEdge 15 s)

/-- ROUND16, code 17 (R192). -/
def execRound16 (s : State) : Host.Outcome State Fault Refusal := .next (roundEdge 16 s)

/-- SWAP, code 18 (R193). -/
def execSwap (s : State) : Host.Outcome State Fault Refusal := .next (swapEdge s)

/-- FP, code 19 (R194). -/
def execFp (s : State) : Host.Outcome State Fault Refusal := .next (fpEdge s)

/-- DONE, code 20: ACCEPT when `start = 1` (R190), HOLD when `start = 0` (R195). -/
def execDone (s : State) : Host.Outcome State Fault Refusal := .next (idleEdge s.pins.start s)

/-- RESERVED, code 21 (R197). -/
def execReserved21 (s : State) : Host.Outcome State Fault Refusal := .next (reservedEdge s)

/-- RESERVED, codes 22 and 23 (R197). -/
def execReserved22 (s : State) : Host.Outcome State Fault Refusal := .next (reservedEdge s)

/-- RESERVED, codes 24 to 31 (R197). -/
def execReserved24 (s : State) : Host.Outcome State Fault Refusal := .next (reservedEdge s)

end Sys2Proof.Machine
end

