-- ==== Sys2Proof/Machine/Dispatch.lean ====
section
/-! DEFINITION. One arm for each constructor of `Instr`. -/

namespace Sys2Proof.Machine

def exec (i : Instr) (s : State) : Host.Outcome State Fault Refusal :=
  match i with
  | .nop => Sys2Proof.Machine.execNop s
  | .start => Sys2Proof.Machine.execStart s
  | .reset _ => Sys2Proof.Machine.execReset s
  | .idle => Sys2Proof.Machine.execIdle s
  | .ip => Sys2Proof.Machine.execIp s
  | .round1 => Sys2Proof.Machine.execRound1 s
  | .round2 => Sys2Proof.Machine.execRound2 s
  | .round3 => Sys2Proof.Machine.execRound3 s
  | .round4 => Sys2Proof.Machine.execRound4 s
  | .round5 => Sys2Proof.Machine.execRound5 s
  | .round6 => Sys2Proof.Machine.execRound6 s
  | .round7 => Sys2Proof.Machine.execRound7 s
  | .round8 => Sys2Proof.Machine.execRound8 s
  | .round9 => Sys2Proof.Machine.execRound9 s
  | .round10 => Sys2Proof.Machine.execRound10 s
  | .round11 => Sys2Proof.Machine.execRound11 s
  | .round12 => Sys2Proof.Machine.execRound12 s
  | .round13 => Sys2Proof.Machine.execRound13 s
  | .round14 => Sys2Proof.Machine.execRound14 s
  | .round15 => Sys2Proof.Machine.execRound15 s
  | .round16 => Sys2Proof.Machine.execRound16 s
  | .swap => Sys2Proof.Machine.execSwap s
  | .fp => Sys2Proof.Machine.execFp s
  | .done => Sys2Proof.Machine.execDone s
  | .reserved21 _ => Sys2Proof.Machine.execReserved21 s
  | .reserved22 _ => Sys2Proof.Machine.execReserved22 s
  | .reserved24 _ => Sys2Proof.Machine.execReserved24 s

end Sys2Proof.Machine
end

