-- ==== Sys2Proof/Machine/Step.lean ====
section
/-! DEFINITION. One step is one rising edge of `clk` (R20, R200): the engine samples the control word, runs the command it
selects, and the ports go on to the next cycle. -/

namespace Sys2Proof.Machine

/-- The step function (R200). -/
def step (s : State) : Host.Outcome State Fault Refusal :=
  match exec (fetch s) s with
  | .next t => .next (advancePins t)
  | .fault r => .fault r
  | .refused r => .refused r

/-- An opcode-table word where the next step finds it: a control word on the ports, a state code in `STATE` with
`rst = 0` (log entry 2). -/
def State.withFetchWord (s : State) (nbits w : Nat) : State := placeTableWord s nbits w

end Sys2Proof.Machine
end

