-- ==== Sys2Proof/Machine/Flags.lean ====
section
/-! DEFINITION. The output ports. The engine's only status is `busy` and `done`, both combinational functions of `STATE`
(R22 to R24); `result` is the register `RES` (R29). Reading an output changes nothing (R46). -/

namespace Sys2Proof.Machine

/-- `busy = 1` exactly when `1 ≤ STATE ≤ 19` (R22). -/
def busy (s : State) : Bool := decide (1 ≤ s.STATE.toNat) && decide (s.STATE.toNat ≤ 19)

/-- `done = 1` exactly when `STATE = 20` (R23). -/
def done (s : State) : Bool := decide (s.STATE.toNat = 20)

/-- The status word `STATUS = done ++ busy` (R62). -/
def status (s : State) : Status := BitVec.ofBool (done s) ++ BitVec.ofBool (busy s)

/-- The `result` port (R29). -/
def result (s : State) : Block := s.RES

end Sys2Proof.Machine
end

