-- ==== Sys2Proof/Machine/HostProgram.lean ====
section
/-! DEFINITION. Host stimulus programs (30_encoding.md section 4): the statements of R68, the pseudo-statement of R69, and
the host that runs them, one clock cycle at a time. The host is the engine's only other agent (R48). It works through the
ports alone: it drives `CTRL` and the data ports and reads `done` and `result`. -/

namespace Sys2Proof.Machine

/-- A statement of the host program notation (R68). `NOP` is `nop 1`. -/
inductive HostStmt where
  /-- `RESET`: one cycle, CTRL `10`. -/
  | reset
  /-- `START b, k`: one cycle, CTRL `01`, with the block and the key on the data ports. -/
  | start (b : Block) (k : MasterKey)
  /-- `STARTHOLD n`: `n` cycles, CTRL `01`. -/
  | startHold (n : Nat)
  /-- `NOP n`: `n` cycles, CTRL `00`. -/
  | nop (n : Nat)
  /-- `WAITDONE`: cycles with CTRL `00` until one begins with `done = 1`. -/
  | waitDone
  /-- `READ`: no cycle; `result` at the start of the current cycle is recorded. -/
  | read
  /-- `SET b, k`: no cycle; the data ports for the following cycles. -/
  | set (b : Block) (k : MasterKey)
  deriving DecidableEq, Repr

/-- The pseudo-statement `ENCRYPT b, k` (R69). -/
def encryptStmts (b : Block) (k : MasterKey) : List HostStmt := [.start b k, .waitDone, .read]

/-- A host that runs a program against the engine, at the start of a clock cycle. -/
structure HostRun where
  /-- The engine. The host overrides its `pins` in every cycle. -/
  engine  : State
  /-- The data port values the host drives; they stay until a statement changes them. -/
  blockIn : Block
  keyIn   : MasterKey
  /-- The statements not yet finished. -/
  program : List HostStmt
  /-- The values `READ` has recorded, oldest first. -/
  reads   : List Block
  deriving DecidableEq, Repr

/-- A program about to run: the data ports are 0 after power-up (R68). -/
def hostStart (s : State) (program : List HostStmt) : HostRun :=
  { engine := s, blockIn := 0, keyIn := 0, program := program, reads := [] }

/-- Finish the statements at the head of the program that take no further cycle: `READ`, `SET`, a count of 0, and
`WAITDONE` in a cycle that begins with `done = 1`. -/
def settleStmts (h : HostRun) : List HostStmt → HostRun
  | [] => { h with program := [] }
  | .read :: p => settleStmts { h with reads := h.reads ++ [result h.engine] } p
  | .set b k :: p => settleStmts { h with blockIn := b, keyIn := k } p
  | .startHold 0 :: p => settleStmts h p
  | .nop 0 :: p => settleStmts h p
  | .waitDone :: p => if done h.engine then settleStmts h p else { h with program := .waitDone :: p }
  | .reset :: p => { h with program := .reset :: p }
  | .start b k :: p => { h with program := .start b k :: p }
  | .startHold (n + 1) :: p => { h with program := .startHold (n + 1) :: p }
  | .nop (n + 1) :: p => { h with program := .nop (n + 1) :: p }

/-- The start of a cycle: the statements that take no cycle are done. -/
def settle (h : HostRun) : HostRun := settleStmts h h.program

/-- One clock cycle with the given control levels and the data ports as they are, after which `rest` remains. -/
def driveCycle (rst start : Bool) (rest : List HostStmt) (h : HostRun) : Host.Outcome HostRun Fault Refusal :=
  match step { h.engine with pins := { rst := rst, start := start, blockIn := h.blockIn, keyIn := h.keyIn } } with
  | .next t => .next { h with engine := t, program := rest }
  | .fault r => .fault r
  | .refused r => .refused r

/-- One clock cycle of a settled program; a finished program drives no further cycle. -/
def settledCycle (h : HostRun) : Host.Outcome HostRun Fault Refusal :=
  match h.program with
  | [] => .next h
  | .reset :: p => driveCycle true false p h
  | .start b k :: p => driveCycle false true p { h with blockIn := b, keyIn := k }
  | .startHold n :: p => driveCycle false true (.startHold (n - 1) :: p) h
  | .nop n :: p => driveCycle false false (.nop (n - 1) :: p) h
  | .waitDone :: p => driveCycle false false (.waitDone :: p) h
  | .read :: p => .next { h with program := .read :: p }
  | .set b k :: p => .next { h with program := .set b k :: p }

/-- One clock cycle of a host program (R68). -/
def hostCycle (h : HostRun) : Host.Outcome HostRun Fault Refusal := settledCycle (settle h)

/-- `n` clock cycles of a host program, and then the statements that take no further cycle. -/
def hostCycles : Nat → HostRun → Host.Outcome HostRun Fault Refusal
  | 0, h => .next (settle h)
  | n + 1, h =>
    match hostCycle h with
    | .next h' => hostCycles n h'
    | .fault r => .fault r
    | .refused r => .refused r

end Sys2Proof.Machine
end

