-- ==== Sys2Proof/Safety.lean ====
section
/-! DEFINITION. What counts as a safe run of the engine: the sequencer holds a code a reset can reach (R199), and the
datapath holds the values of the operation in progress (R26, R27, R167, R196), so that `done` flags a valid result
(R23). -/

namespace Sys2Proof.Machine

/-- `STATE` is one of the codes 0..20, the only ones reached from a reset (R199). -/
abbrev LegalState (s : State) : Prop := s.STATE.toNat ≤ 20

/-- The block halves and key halves are those of the captured block and key after `i` rounds (R26, R27). -/
def HoldsRound (i : Nat) (s : State) : Prop :=
  (s.L, s.R) = roundHalves s.BLK s.KEY i ∧ (s.C, s.D) = keyHalves s.KEY i

/-- The datapath agrees with the operation on the captured block and key, state by state: after the IP edge and after
round `i` (`STATE = i + 2`) it holds the values of round `i`; after SWAP, and on into DONE, it holds the last of them
exchanged; in DONE, `RES` is the ciphertext (R26, R27, R193, R196). In IDLE, in IP and in the reserved codes it says nothing. -/
def DatapathAgrees (s : State) : Prop :=
  (∀ i, i ≤ 16 → s.STATE.toNat = i + 2 → HoldsRound i s) ∧
  (s.STATE.toNat = 19 ∨ s.STATE.toNat = 20 → (s.R, s.L) = roundHalves s.BLK s.KEY 16 ∧ (s.C, s.D) = keyHalves s.KEY 16) ∧
  (s.STATE.toNat = 20 → s.RES = desEncrypt s.BLK s.KEY)

/-- The registers of two states are equal; their ports may differ. -/
abbrev SameRegisters (s t : State) : Prop :=
  s.STATE = t.STATE ∧ s.BLK = t.BLK ∧ s.KEY = t.KEY ∧ s.L = t.L ∧ s.R = t.R ∧ s.C = t.C ∧ s.D = t.D ∧ s.RES = t.RES

/-- An operation is accepted at the coming edge: IDLE or DONE, `rst = 0`, `start = 1` (R190). -/
abbrev Accepts (s : State) : Prop :=
  (s.STATE.toNat = 0 ∨ s.STATE.toNat = 20) ∧ s.pins.rst = false ∧ s.pins.start = true

/-- The host lists at least `n` cycles to come and holds `rst = 0` in the next `n` of them. -/
abbrev NoResetFor (n : Nat) (s : State) : Prop :=
  n ≤ s.inputs.length ∧ ∀ p ∈ s.inputs.take n, p.rst = false

/-- The host lists at least `n` cycles to come and drives `NOP` (`rst = 0`, `start = 0`) in the next `n` of them. -/
abbrev QuietFor (n : Nat) (s : State) : Prop :=
  n ≤ s.inputs.length ∧ ∀ p ∈ s.inputs.take n, p.rst = false ∧ p.start = false

/-- What a ROUND edge leaves, given the rotated key halves (R192). The four steps of `f` (R150: E, XOR with the round key,
the S-boxes, P) and PC-2 of the concatenated halves (R165) are written out, apart from the engine's own names. -/
def afterRoundWith (c d : KeyHalf) (next : StateCode) (s : State) : State :=
  { s with
    L := s.R
    R := s.L ^^^ perm tableP (sbox (perm tableE s.R ^^^ perm tablePC2 (c ++ d)))
    C := c
    D := d
    STATE := next }

/-- A ROUND row with shift 1: the halves are `v[26:0] ++ v[27:27]` (R162, R192). -/
def afterRoundShift1 (next : StateCode) (s : State) : State :=
  afterRoundWith (s.C.extractLsb' 0 27 ++ s.C.extractLsb' 27 1) (s.D.extractLsb' 0 27 ++ s.D.extractLsb' 27 1) next s

/-- A ROUND row with shift 2: the halves are `v[25:0] ++ v[27:26]` (R162, R192). -/
def afterRoundShift2 (next : StateCode) (s : State) : State :=
  afterRoundWith (s.C.extractLsb' 0 26 ++ s.C.extractLsb' 26 2) (s.D.extractLsb' 0 26 ++ s.D.extractLsb' 26 2) next s

end Sys2Proof.Machine
end

