-- ==== Sys2Proof/Certificates/Slice0/Obligations.lean ====
section
/-! DEFINITION. The statements for the provers. `OBLIGATIONS.json` lists them in this order. -/

open Sys2Proof Sys2Proof.Machine

/-! ## Encodings (30_encoding.md) -/

/-- Decoding the encoding of a well-formed instruction gives it back, every operand at every value (R61, R63). -/
def Obligations.DecodeOfEncodeIsTheInstruction : Prop :=
  ∀ i : Instr, WellFormed i = true → decodeWord (encode i) = .instr i

/-- Each word has one meaning: what a word decodes to is well formed and encodes to that word and no other (R63, R65). -/
def Obligations.EncodeOfDecodeIsTheWord : Prop :=
  ∀ (f : Format) (w : Nat) (i : Instr), decode f w = .instr i → WellFormed i = true ∧ encode i = ⟨f, w⟩

/-- Both decoders are total (R65). Codes 0..20 select the micro-op of R63, each code its own; every code from 21 to 31
selects the RESERVED micro-op; every `CTRL` value selects a host command. Two clauses go beyond R65: the micro-op of a
RESERVED code is run in every state, also one whose `STATE` is another code or whose `rst` is 1, which is the model's
choice (log entry 5, DEDUCED); and a number of more bits than the format, which is no word (R67), is rejected by name,
which is what the model's decoder does with it. -/
def Obligations.DecodersAreTotalOnTheirWidths : Prop :=
  (∀ c : StateCode, c.toNat ≤ 20 →
    [Instr.idle, .ip, .round1, .round2, .round3, .round4, .round5, .round6, .round7, .round8, .round9, .round10,
      .round11, .round12, .round13, .round14, .round15, .round16, .swap, .fp, .done][c.toNat]? =
        some (decodeStateCode c)) ∧
  (∀ c : StateCode, 21 ≤ c.toNat → ∀ s : State, exec (decodeStateCode c) s = .next { s with STATE := 0 }) ∧
  (∀ w : Ctrl, decodeCtrl w = .nop ∨ decodeCtrl w = .start ∨ ∃ x, decodeCtrl w = .reset x) ∧
  (∀ w : Nat, w < 32 → decode .fsmState w = .instr (decodeStateCode (BitVec.ofNat 5 w))) ∧
  (∀ w : Nat, w < 4 → decode .hostCtrl w = .instr (decodeCtrl (BitVec.ofNat 2 w))) ∧
  (∀ w : Nat, 32 ≤ w → decode .fsmState w = .rejected (.stateCodeTooWide w)) ∧
  (∀ w : Nat, 4 ≤ w → decode .hostCtrl w = .rejected (.ctrlWordTooWide w))

/-- Words of the opcode table, written out: the three host commands (R61) and codes of each kind of state (R63). -/
def Obligations.SpecWordsDecodeToTheirRows : Prop :=
  decode .hostCtrl 0b00 = .instr .nop ∧ decode .hostCtrl 0b01 = .instr .start ∧
  decode .hostCtrl 0b10 = .instr (.reset 0) ∧ decode .hostCtrl 0b11 = .instr (.reset 1) ∧
  decode .fsmState 0b00000 = .instr .idle ∧ decode .fsmState 0b00001 = .instr .ip ∧
  decode .fsmState 0b00010 = .instr .round1 ∧ decode .fsmState 0b10001 = .instr .round16 ∧
  decode .fsmState 0b10010 = .instr .swap ∧ decode .fsmState 0b10011 = .instr .fp ∧
  decode .fsmState 0b10100 = .instr .done ∧ decode .fsmState 0b10101 = .instr (.reserved21 21) ∧
  decode .fsmState 0b10111 = .instr (.reserved22 23) ∧ decode .fsmState 0b11001 = .instr (.reserved24 25)

/-! ## The step (46_pipeline.md part 2, R200) -/

/-- A step runs the host command that the control word on the ports decodes to (R61), and then the ports go on: to the
next listed input, or to a free value when none is listed (log entry 1). No register is touched by that. -/
def Obligations.StepRunsTheDecodedHostCommand : Prop :=
  ∀ (s : State) (i : Instr), decode .hostCtrl (ctrl s).toNat = .instr i →
    ∃ t, exec i s = .next t ∧ t.pins = s.pins ∧ t.inputs = s.inputs ∧ t.cycle = s.cycle ∧
      step s = .next { t with
        pins := s.inputs.head?.getD (Config.freePins s.cycle)
        inputs := s.inputs.tail
        cycle := s.cycle + 1 }

/-- With `rst = 0` a step is the micro-op that `STATE` decodes to (R63, R65, R200), whatever the host command, and then
the ports go on. -/
def Obligations.StepRunsTheDecodedMicroOp : Prop :=
  ∀ (s : State) (i : Instr), s.pins.rst = false → decode .fsmState s.STATE.toNat = .instr i →
    ∃ t, exec i s = .next t ∧ step s = .next (advancePins t)

/-- A word that `withFetchWord` places is the instruction the very next step runs (log entry 2). -/
def Obligations.PlacedTableWordIsRunNext : Prop :=
  ∀ (s : State) (nbits w : Nat) (i : Instr), decodeTableWord nbits w = some i →
    ∃ t, exec i (s.withFetchWord nbits w) = .next t ∧ step (s.withFetchWord nbits w) = .next (advancePins t)

/-- R200, the step function: one reset or one micro-op at every edge, as its if chain lists them, from the registers and
the values of the ports at the edge alone. -/
def Obligations.StepFunctionIsTheOneOfTheSpec : Prop :=
  (∀ s : State, ∃ t, step s = .next t ∧ SameRegisters t
    (if s.pins.rst = true then
      { s with STATE := 0, BLK := 0, KEY := 0, L := 0, R := 0, C := 0, D := 0, RES := 0 }
    else if (s.STATE = 0 ∨ s.STATE = 20) ∧ s.pins.start = true then
      { s with BLK := s.pins.blockIn, KEY := s.pins.keyIn, STATE := 1 }
    else if s.STATE = 0 ∨ s.STATE = 20 then s
    else if s.STATE = 1 then
      { s with
        L := (ipsplit (ipperm s.BLK)).1, R := (ipsplit (ipperm s.BLK)).2
        C := (pc1split s.KEY).1, D := (pc1split s.KEY).2, STATE := 2 }
    else if 2 ≤ s.STATE ∧ s.STATE ≤ 17 then
      if s.STATE = 2 ∨ s.STATE = 3 ∨ s.STATE = 10 ∨ s.STATE = 17 then afterRoundShift1 (s.STATE + 1) s
      else afterRoundShift2 (s.STATE + 1) s
    else if s.STATE = 18 then { s with L := s.R, R := s.L, STATE := 19 }
    else if s.STATE = 19 then { s with RES := fpperm (s.L ++ s.R), STATE := 20 }
    else { s with STATE := 0 })) ∧
  (∀ s s' t t' : State, SameRegisters s s' → s.pins = s'.pins → step s = .next t → step s' = .next t' →
    SameRegisters t t')

/-- R300: no instruction and no step can fail; every value on every port has a defined effect. That an instruction has a
meaning in a state where no step runs it is the model's choice (log entry 5, DEDUCED). -/
def Obligations.NothingFaultsOrIsRefused : Prop :=
  (∀ (i : Instr) (s : State), ∃ t, exec i s = .next t) ∧
  (∀ (s : State) (p : Pins), ∃ t, step { s with pins := p } = .next t)

/-! ## What each instruction leaves: the whole next state, so its frame as well -/

/-- NOP (R61, R200 with `start = 0`): IDLE and DONE hold, whatever the level on `start`; in every other state it is the
micro-op the state code decodes to. The rules give the command where the ports carry its control word; that its meaning
is the same whatever the pins carry is the model's choice (log entry 5, DEDUCED). -/
def Obligations.NopRunsTheSelectedMicroOp : Prop :=
  (∀ s : State, s.STATE = 0 ∨ s.STATE = 20 → exec .nop s = .next s) ∧
  (∀ s : State, s.STATE ≠ 0 → s.STATE ≠ 20 → exec .nop s = exec (decodeStateCode s.STATE) s) ∧
  (∀ s : State, ∃ t, exec .nop s = .next t ∧ t.BLK = s.BLK ∧ t.KEY = s.KEY ∧ t.pins = s.pins)

/-- START (R61): accepted in IDLE and DONE, where it captures the data ports and changes nothing else (R190); in every
other state it acts as NOP (R198). That this holds whatever control word the pins carry is the model's choice (log
entry 5, DEDUCED). -/
def Obligations.StartAcceptsOrActsAsNop : Prop :=
  (∀ s : State, s.STATE = 0 ∨ s.STATE = 20 →
    exec .start s = .next { s with BLK := s.pins.blockIn, KEY := s.pins.keyIn, STATE := 1 }) ∧
  (∀ s : State, s.STATE ≠ 0 → s.STATE ≠ 20 → exec .start s = exec .nop s) ∧
  (∀ s : State, ∃ t, exec .start s = .next t)

/-- RESET (R400): every register takes its reset value, whatever the ignored bit 0 is; the ports are the host's. That this
holds whatever control word the pins carry is the model's choice (log entry 5, DEDUCED). -/
def Obligations.ResetCommandClearsEveryRegister : Prop :=
  ∀ (x : BitVec 1) (s : State), exec (.reset x) s =
    .next { s with STATE := 0, BLK := 0, KEY := 0, L := 0, R := 0, C := 0, D := 0, RES := 0 }

/-- IDLE and DONE: ACCEPT when `start = 1` (R190), HOLD when `start = 0` (R195). The rules say so in codes 0 and 20 with
`rst = 0`; that exec of the two micro-ops is the same in every state is the model's choice (log entry 5, DEDUCED). -/
def Obligations.IdleAndDoneAcceptOrHold : Prop :=
  ∀ s : State,
    (s.pins.start = true →
      exec .idle s = .next { s with BLK := s.pins.blockIn, KEY := s.pins.keyIn, STATE := 1 } ∧
      exec .done s = .next { s with BLK := s.pins.blockIn, KEY := s.pins.keyIn, STATE := 1 }) ∧
    (s.pins.start = false → exec .idle s = .next s ∧ exec .done s = .next s)

/-- IP (R191): the halves of the permuted block and of the PC-1 output, sliced as R181 and R161 say, from `BLK` and `KEY`
alone. R191 speaks of code 1 with `rst = 0`; that exec of IP is the same in every state is the model's choice (log
entry 5, DEDUCED). -/
def Obligations.IpLoadsTheHalves : Prop :=
  ∀ s : State, exec .ip s = .next { s with
    L := (perm tableIP s.BLK).extractLsb' 32 32
    R := (perm tableIP s.BLK).extractLsb' 0 32
    C := (perm tablePC1 s.KEY).extractLsb' 28 28
    D := (perm tablePC1 s.KEY).extractLsb' 0 28
    STATE := 2 }

/-- ROUND1 to ROUND16 (R192): the shift of each row and the code of the next state (R63, R64), the slices of the rotation
(R162), the four steps of `f` (R150) and PC-2 of the rotated halves (R165), all written out. R192 speaks of each round's
own code with `rst = 0`; that exec of the micro-op is the same in every state is the model's choice (log entry 5,
DEDUCED). -/
def Obligations.RoundMicroOpsDoOneFeistelRound : Prop :=
  ∀ s : State,
    exec .round1 s = .next (afterRoundShift1 3 s) ∧ exec .round2 s = .next (afterRoundShift1 4 s) ∧
    exec .round3 s = .next (afterRoundShift2 5 s) ∧ exec .round4 s = .next (afterRoundShift2 6 s) ∧
    exec .round5 s = .next (afterRoundShift2 7 s) ∧ exec .round6 s = .next (afterRoundShift2 8 s) ∧
    exec .round7 s = .next (afterRoundShift2 9 s) ∧ exec .round8 s = .next (afterRoundShift2 10 s) ∧
    exec .round9 s = .next (afterRoundShift1 11 s) ∧ exec .round10 s = .next (afterRoundShift2 12 s) ∧
    exec .round11 s = .next (afterRoundShift2 13 s) ∧ exec .round12 s = .next (afterRoundShift2 14 s) ∧
    exec .round13 s = .next (afterRoundShift2 15 s) ∧ exec .round14 s = .next (afterRoundShift2 16 s) ∧
    exec .round15 s = .next (afterRoundShift2 17 s) ∧ exec .round16 s = .next (afterRoundShift1 18 s)

/-- SWAP (R193): the halves are exchanged, both from the values before the edge; `busy` stays 1 and `done` 0; `start` is
ignored. The edge clause is the rule's, in code 18 with `rst = 0`; that exec of SWAP does the same in every state (the
first and the last clause) is the model's choice (log entry 5, DEDUCED). -/
def Obligations.SwapExchangesTheHalves : Prop :=
  (∀ s : State, exec .swap s = .next { s with L := s.R, R := s.L, STATE := 19 }) ∧
  (∀ s : State, s.STATE = 18 → s.pins.rst = false →
    busy s = true ∧ done s = false ∧
    ∃ t, step s = .next t ∧ SameRegisters t { s with L := s.R, R := s.L, STATE := 19 } ∧
      busy t = true ∧ done t = false ∧ (s.L = s.R → t.L = s.L ∧ t.R = s.R)) ∧
  (∀ s : State, s.L = 0x43423234 → s.R = 0x0A4CD995 → ∃ t, exec .swap s = .next t ∧
    t.L = 0x0A4CD995 ∧ t.R = 0x43423234 ∧ t.L ++ t.R = 0x0A4CD99543423234#64)

/-- FP (R194): `RES` takes `fpperm(L ++ R)`, and `done` rises at the same edge; no other micro-op writes `RES`; `start` is
ignored. The edge clause is the rule's, in code 19 with `rst = 0`; that exec of FP, and of every other micro-op, does the
same in every state (the other clauses) is the model's choice (log entry 5, DEDUCED). -/
def Obligations.FpWritesTheResult : Prop :=
  (∀ s : State, exec .fp s = .next { s with RES := fpperm (s.L ++ s.R), STATE := 20 }) ∧
  (∀ s : State, s.STATE = 19 → s.pins.rst = false →
    ∃ t, step s = .next t ∧ SameRegisters t { s with RES := fpperm (s.L ++ s.R), STATE := 20 } ∧
      busy t = false ∧ done t = true) ∧
  (∀ (i : Instr) (s t : State), i ≠ .nop → i ≠ .start → (∀ x, i ≠ .reset x) → exec i s = .next t →
    t.RES ≠ s.RES → i = .fp) ∧
  (∀ s : State, s.L ++ s.R = 0x0A4CD99543423234#64 → ∃ t, exec .fp s = .next t ∧
    t.RES = 0x85E813540F0AB405 ∧ t.STATE = 20)

/-- RESERVED (R197): in every code from 21 to 31 the engine goes to IDLE, writes no other register and takes no start;
`busy` and `done` are 0 before the edge and after it. No edge leads into such a code (R199). The edge clauses are the
rules', with `rst = 0`; that exec of a RESERVED term does the same in every state and for every operand, also one outside
its row, is the model's choice (log entry 5, DEDUCED). -/
def Obligations.ReservedCodesGoToIdle : Prop :=
  (∀ (code : StateCode) (s : State),
    exec (.reserved21 code) s = .next { s with STATE := 0 } ∧
    exec (.reserved22 code) s = .next { s with STATE := 0 } ∧
    exec (.reserved24 code) s = .next { s with STATE := 0 }) ∧
  (∀ s : State, 21 ≤ s.STATE.toNat → s.pins.rst = false →
    busy s = false ∧ done s = false ∧
    ∃ t, step s = .next t ∧ SameRegisters t { s with STATE := 0 } ∧ busy t = false ∧ done t = false) ∧
  (∀ s : State, s.STATE = 25 → s.pins.rst = false → s.pins.start = true →
    ∃ t, step s = .next t ∧ t.STATE = 0 ∧ t.BLK = s.BLK ∧ t.KEY = s.KEY) ∧
  (∀ s t : State, step s = .next t → t.STATE.toNat < 21)

/-! ## Accept, hold and the start handshake -/

/-- R190, micro-op ACCEPT, as a whole edge: the data ports are captured, `busy` is 1 and `done` 0, `RES` and the halves
stay; with `start` held the edge after DONE is reached accepts, so that `done` is 1 for exactly one cycle. -/
def Obligations.AcceptCapturesThePorts : Prop :=
  (∀ s : State, Accepts s →
    ∃ t, step s = .next t ∧
      SameRegisters t { s with BLK := s.pins.blockIn, KEY := s.pins.keyIn, STATE := 1 } ∧
      busy t = true ∧ done t = false) ∧
  (∀ s t : State, s.STATE = 19 → s.pins.rst = false → step s = .next t →
    t.pins.rst = false → t.pins.start = true →
    done s = false ∧ done t = true ∧ ∃ u, step t = .next u ∧ done u = false) ∧
  (∀ s : State, Accepts s → s.pins.blockIn = 0x0123456789ABCDEF → s.pins.keyIn = 0x133457799BBCDFF1 →
    ∃ t, step s = .next t ∧ t.BLK = 0x0123456789ABCDEF ∧ t.KEY = 0x133457799BBCDFF1 ∧ t.STATE = 1)

/-- R195, micro-op HOLD: IDLE and DONE with `rst = 0` and `start = 0` change no register, `busy` is 0 and `done` stays as
it is, and this lasts as long as the host keeps NOP. -/
def Obligations.IdleAndDoneHoldIndefinitely : Prop :=
  ∀ (n : Nat) (s : State), s.STATE = 0 ∨ s.STATE = 20 → s.pins.rst = false → s.pins.start = false → QuietFor n s →
    ∃ t, core.run (n + 1) s = .next t ∧ SameRegisters s t ∧ busy t = false ∧ done t = done s ∧ result t = result s

/-- R198: outside IDLE and DONE a `start = 1` is ignored. The edge leaves the very state it leaves with `start = 0`, so the
request is neither queued nor remembered nor reported. -/
def Obligations.StartWhileBusyLeavesNoTrace : Prop :=
  ∀ s : State, s.STATE ≠ 0 → s.STATE ≠ 20 → s.pins.rst = false →
    step { s with pins := { s.pins with start := true } } = step { s with pins := { s.pins with start := false } } ∧
    ∃ t, step { s with pins := { s.pins with start := true } } = .next t

/-- R28: `BLK` and `KEY` take the data ports at the accepting edge, are cleared by reset and change at no other edge; no
other edge reads the data ports. -/
def Obligations.CaptureRegistersChangeOnlyAtAccept : Prop :=
  ∀ s : State, ∃ t, step s = .next t ∧
    (s.pins.rst = true → t.BLK = 0 ∧ t.KEY = 0) ∧
    (Accepts s → t.BLK = s.pins.blockIn ∧ t.KEY = s.pins.keyIn) ∧
    (s.pins.rst = false → ¬ Accepts s → t.BLK = s.BLK ∧ t.KEY = s.KEY) ∧
    (¬ Accepts s → ∀ (b : Block) (k : MasterKey),
      step { s with pins := { s.pins with blockIn := b, keyIn := k } } = .next t)

/-- R29: `RES` drives the `result` port; only the FP micro-op writes it and reset clears it, so it keeps its value through
DONE, through IDLE and through an operation until its FP edge. -/
def Obligations.ResultRegisterIsWrittenOnlyAtFp : Prop :=
  ∀ s : State, result s = s.RES ∧ ∃ t, step s = .next t ∧
    (s.pins.rst = true → t.RES = 0) ∧
    (s.pins.rst = false → s.STATE = 19 → t.RES = fpperm (s.L ++ s.R)) ∧
    (s.pins.rst = false → s.STATE ≠ 19 → t.RES = s.RES)

/-! ## Outputs -/

/-- R22 and R62: `busy` is 1 exactly in the codes 1..19; the status word is `00` exactly in IDLE and the reserved codes,
`01` exactly in 1..19, `10` exactly in DONE, where `result` is valid, and never `11`. -/
def Obligations.StatusWordFollowsTheStateCode : Prop :=
  ∀ s : State,
    (busy s = true ↔ 1 ≤ s.STATE.toNat ∧ s.STATE.toNat ≤ 19) ∧
    (status s).getLsbD 1 = done s ∧ (status s).getLsbD 0 = busy s ∧
    (status s = 0b00 ↔ s.STATE = 0 ∨ 21 ≤ s.STATE.toNat) ∧
    (status s = 0b01 ↔ 1 ≤ s.STATE.toNat ∧ s.STATE.toNat ≤ 19) ∧
    (status s = 0b10 ↔ s.STATE = 20) ∧
    (DatapathAgrees s → status s = 0b10 → result s = desEncrypt s.BLK s.KEY) ∧
    status s ≠ 0b11

/-- R23: `done` is 1 exactly in DONE, and then, in every run from a reset, `result` is the ciphertext of the captured block
and key, whatever the host does. -/
def Obligations.DoneFlagsTheCiphertext : Prop :=
  (∀ s : State, done s = true ↔ s.STATE = 20) ∧
  (∀ (n : Nat) (p : Pins) (ins : List Pins), ∃ t,
    core.run n { State.reset with pins := p, inputs := ins } = .next t ∧
    (done t = true → result t = desEncrypt t.BLK t.KEY))

/-! ## Reset and power-up (70_reset_and_hazards.md) -/

/-- R34 and R401: after an edge with `rst = 1` every register holds its reset value and `busy` and `done` are 0, whatever
the state was and whatever `start` is. -/
def Obligations.ResetEdgeLeavesTheResetValues : Prop :=
  ∀ s : State, s.pins.rst = true → ∃ t, step s = .next t ∧
    t.STATE = 0b00000 ∧ t.BLK = 0x0000000000000000 ∧ t.KEY = 0x0000000000000000 ∧ t.L = 0x00000000 ∧
    t.R = 0x00000000 ∧ t.C = 0x0000000 ∧ t.D = 0x0000000 ∧ t.RES = 0x0000000000000000 ∧
    busy t = false ∧ done t = false

/-- The machine's reset state is the one an edge with `rst = 1` leaves: its registers are those of R34, also after
power-up, where every register is unspecified (R35, R404). The ports and the cycle count of the reset state are the
model's choice (log entry 3) and are not spoken of. -/
def Obligations.ResetStateIsWhatResetLeaves : Prop :=
  (∀ s t : State, s.pins.rst = true → step s = .next t → SameRegisters t State.reset) ∧
  (∀ p : Pins, p.rst = true → ∃ t, step { State.powerUp with pins := p } = .next t ∧ SameRegisters t State.reset)

/-- R402: a reset in `STATE` 1..19 abandons the operation: `RES` is 0 and `done` stays 0, and this lasts, whatever else the
host does, until it starts a new operation. -/
def Obligations.ResetAbandonsTheOperation : Prop :=
  ∀ (n : Nat) (s : State), 1 ≤ s.STATE.toNat → s.STATE.toNat ≤ 19 → s.pins.rst = true →
    n ≤ s.inputs.length → (∀ p ∈ s.inputs.take n, p.start = false) →
    ∃ t, core.run (n + 1) s = .next t ∧ t.RES = 0 ∧ t.STATE = 0 ∧ busy t = false ∧ done t = false

/-- R403: while `rst` stays 1 the engine stays in the reset state, one such edge is enough, and the first edge with
`rst = 0` performs the micro-op of IDLE. -/
def Obligations.ResetHoldsWhileRstIsHigh : Prop :=
  ∀ (n : Nat) (s : State), s.pins.rst = true → n ≤ s.inputs.length → (∀ p ∈ s.inputs.take n, p.rst = true) →
    ∃ t, core.run (n + 1) s = .next t ∧ SameRegisters t State.reset ∧
      (t.pins.rst = false → ∃ u, exec .idle t = .next u ∧ step t = .next (advancePins u))

/-! ## Invariants that every step keeps -/

/-- R199: the successors of each code, and that a run that starts in the reset state, whatever the host drives, meets only
the codes 0..20. -/
def Obligations.OnlyLegalCodesAreReached : Prop :=
  (∀ s t : State, step s = .next t →
    (s.pins.rst = true → t.STATE = 0) ∧
    (s.pins.rst = false → s.STATE = 0 → t.STATE = 0 ∨ t.STATE = 1) ∧
    (s.pins.rst = false → 1 ≤ s.STATE.toNat → s.STATE.toNat ≤ 19 → t.STATE = s.STATE + 1) ∧
    (s.pins.rst = false → s.STATE = 20 → t.STATE = 20 ∨ t.STATE = 1)) ∧
  (∀ (n : Nat) (p : Pins) (ins : List Pins), ∃ t,
    core.run n { State.reset with pins := p, inputs := ins } = .next t ∧ LegalState t)

/-- After every edge the code is legal, from whatever state the edge starts: the legal codes lead to legal codes, the
reserved ones to IDLE, and reset to IDLE (R197, R199, R400). -/
def Obligations.EveryStepLeavesALegalCode : Prop :=
  ∀ s : State, ∃ t, step s = .next t ∧ LegalState t

/-- Every step keeps the datapath in agreement with the captured block and key: the registers hold the spec's `L[i]`,
`R[i]`, `C[i]` and `D[i]` after each round, exchanged after SWAP, and `RES` is the ciphertext in DONE (R26, R27, R167). -/
def Obligations.EveryStepKeepsTheDatapathInAgreement : Prop :=
  ∀ s t : State, DatapathAgrees s → step s = .next t → DatapathAgrees t

/-- Both invariants hold in the reset state. -/
def Obligations.ResetStateMeetsTheInvariants : Prop :=
  LegalState State.reset ∧ DatapathAgrees State.reset

/-! ## One operation (R196, R410, R411, R414) -/

/-- R196: from any state that accepts, with `rst = 0` at the nineteen edges that follow and anything else on the ports, the
engine is in ROUND1 after the first of them, holds `(L[i], R[i])` of the pipeline after round `i`, is in FP after the
eighteenth, and is in DONE with the ciphertext after the nineteenth. -/
def Obligations.OneOperationComputesDesEncrypt : Prop :=
  ∀ s : State, Accepts s → NoResetFor 19 s →
    (∃ t, core.run 2 s = .next t ∧ t.STATE = 2) ∧
    (∀ i : Nat, 1 ≤ i → i ≤ 16 → ∃ t, core.run (i + 2) s = .next t ∧
      (t.L, t.R) = roundHalves s.pins.blockIn s.pins.keyIn i ∧ t.STATE.toNat = i + 2) ∧
    (∃ t, core.run 19 s = .next t ∧ t.STATE = 19) ∧
    (∃ t, core.run 20 s = .next t ∧ t.STATE = 20 ∧ t.RES = desEncrypt s.pins.blockIn s.pins.keyIn)

/-- R410: each state of the operation takes one cycle, `busy` is 1 for the nineteen cycles that follow the accepting edge
`t`, `done` is 1 after edge `t+19`, and the result then holds as long as there is neither an accept nor a reset. -/
def Obligations.DoneRisesNineteenEdgesAfterTheAccept : Prop :=
  ∀ s : State, Accepts s → NoResetFor 19 s →
    (∀ k : Nat, k ≤ 19 → ∃ t, core.run (k + 1) s = .next t ∧ t.STATE.toNat = k + 1 ∧
      (busy t = true ↔ k ≤ 18) ∧ (done t = true ↔ k = 19)) ∧
    (∀ m : Nat, 19 + m ≤ s.inputs.length →
      (∀ p ∈ (s.inputs.drop 19).take m, p.rst = false ∧ p.start = false) →
      ∃ t, core.run (20 + m) s = .next t ∧ done t = true ∧
        result t = desEncrypt s.pins.blockIn s.pins.keyIn)

/-- R411: after an accept at edge `t` no edge `t+1` .. `t+19` accepts, and `t+20` is the first that can. -/
def Obligations.TheNextAcceptIsTwentyEdgesLater : Prop :=
  ∀ s : State, Accepts s → NoResetFor 19 s →
    (∀ k : Nat, 1 ≤ k → k ≤ 19 → ∃ t, core.run k s = .next t ∧ ¬ Accepts t) ∧
    (∃ t, core.run 20 s = .next t ∧ t.STATE = 20 ∧
      (t.pins.rst = false → t.pins.start = true → Accepts t))

/-- R414: with `start` held at 1 the edge after DONE is reached accepts again. `done` is 1 after edge `t+19` and at no other
edge up to `t+38`, and the FP edge `t+39` overwrites `RES` with the second operation's result. -/
def Obligations.HeldStartFlagsEachResultForOneCycle : Prop :=
  ∀ (s : State) (second : Pins), Accepts s → NoResetFor 39 s → (∀ p ∈ s.inputs.take 20, p.start = true) →
    s.inputs[19]? = some second →
    (∀ k : Nat, k ≤ 38 → ∃ t, core.run (k + 1) s = .next t ∧ (done t = true ↔ k = 19)) ∧
    (∃ t, core.run 20 s = .next t ∧ result t = desEncrypt s.pins.blockIn s.pins.keyIn) ∧
    (∃ t, core.run 21 s = .next t ∧ t.STATE = 1 ∧ t.BLK = second.blockIn ∧ t.KEY = second.keyIn) ∧
    (∃ t, core.run 40 s = .next t ∧ done t = true ∧ result t = desEncrypt second.blockIn second.keyIn)

/-- No value of an earlier operation reaches a later result (R33): two engines that accept the same block and key end the
operation with every register equal, however their registers, their `start` and their data ports differed otherwise. -/
def Obligations.NothingOfAnEarlierOperationSurvives : Prop :=
  ∀ s s' : State, Accepts s → Accepts s' → NoResetFor 19 s → NoResetFor 19 s' →
    s.pins.blockIn = s'.pins.blockIn → s.pins.keyIn = s'.pins.keyIn →
    ∃ t t', core.run 20 s = .next t ∧ core.run 20 s' = .next t' ∧ SameRegisters t t'

/-! ## The host program notation (R68, R69, R201) -/

/-- R69: `ENCRYPT b, k` from IDLE or DONE is one cycle of START and exactly nineteen of WAITDONE, and then records
`des_encrypt(b, k)`. -/
def Obligations.EncryptTransactionReadsTheCiphertext : Prop :=
  ∀ (h : HostRun) (b : Block) (k : MasterKey), h.engine.STATE = 0 ∨ h.engine.STATE = 20 →
    h.program = encryptStmts b k →
    encryptStmts b k = [.start b k, .waitDone, .read] ∧
    (∀ n : Nat, 1 ≤ n → n ≤ 19 → ∃ h', hostCycles n h = .next h' ∧ h'.program = [.waitDone, .read] ∧
      h'.reads = h.reads) ∧
    (∃ h', hostCycles 20 h = .next h' ∧ h'.program = [] ∧ h'.reads = h.reads ++ [desEncrypt b k])

/-- R201: START and then nineteen NOPs, from IDLE or DONE, leave `done = 1` and `result = des_encrypt(b, k)`. -/
def Obligations.StartAndNineteenNopsEncrypt : Prop :=
  ∀ (h : HostRun) (b : Block) (k : MasterKey), h.engine.STATE = 0 ∨ h.engine.STATE = 20 →
    h.program = [.start b k, .nop 19] →
    ∃ h', hostCycles 20 h = .next h' ∧ h'.program = [] ∧ done h'.engine = true ∧
      result h'.engine = desEncrypt b k

/-- R68: the `CTRL` value and the data ports of one cycle of each statement that takes one, and what remains of it; READ and
SET take none, nor does what is left of a STARTHOLD or a NOP when its count is 0, so that each takes as many cycles as its
count says. -/
def Obligations.HostStatementsDriveTheirCycles : Prop :=
  (∀ (h : HostRun) (p : List HostStmt) (b : Block) (k : MasterKey) (n : Nat),
    hostCycle { h with program := .reset :: p } =
      driveCycle true false p { h with program := .reset :: p } ∧
    hostCycle { h with program := .start b k :: p } =
      driveCycle false true p { h with program := .start b k :: p, blockIn := b, keyIn := k } ∧
    hostCycle { h with program := .startHold (n + 1) :: p } =
      driveCycle false true (.startHold n :: p) { h with program := .startHold (n + 1) :: p } ∧
    hostCycle { h with program := .nop (n + 1) :: p } =
      driveCycle false false (.nop n :: p) { h with program := .nop (n + 1) :: p } ∧
    hostCycle { h with program := .startHold 0 :: p } = hostCycle { h with program := p } ∧
    hostCycle { h with program := .nop 0 :: p } = hostCycle { h with program := p } ∧
    (done h.engine = false → hostCycle { h with program := .waitDone :: p } =
      driveCycle false false (.waitDone :: p) { h with program := .waitDone :: p }) ∧
    (done h.engine = true →
      hostCycle { h with program := .waitDone :: p } = hostCycle { h with program := p }) ∧
    hostCycle { h with program := .read :: p } =
      hostCycle { h with program := p, reads := h.reads ++ [h.engine.RES] } ∧
    hostCycle { h with program := .set b k :: p } =
      hostCycle { h with program := p, blockIn := b, keyIn := k }) ∧
  (∀ (h : HostRun) (p : List HostStmt) (rst start : Bool), ∃ t,
    step { h.engine with pins := ⟨rst, start, h.blockIn, h.keyIn⟩ } = .next t ∧
    driveCycle rst start p h = .next { h with engine := t, program := p })

/-! ## The datapath (40_permutation_engine.md to 46_pipeline.md part 1) -/

/-- R100: output DES bit `n` of `Perm` is input DES bit `T[n]`, for every table, and every entry is a bit of the input.
Zero gives zero and all ones give all ones. -/
def Obligations.PermMovesTheBitsTheTableNames : Prop :=
  (∀ (wIn wOut : Nat) (T : Table wIn wOut) (v : BitVec wIn),
    (∀ n : Nat, 1 ≤ n → n ≤ wOut → ∃ e, T.entries[n - 1]? = some e ∧ 1 ≤ e ∧ e ≤ wIn ∧
      desBit (perm T v) n = desBit v e) ∧
    perm T (0 : BitVec wIn) = 0 ∧ perm T (BitVec.allOnes wIn) = BitVec.allOnes wOut) ∧
  perm tableIP 0x0123456789ABCDEF = 0xCC00CCFFF0AAF0AA

/-- R101: the properties of the six tables: IP, FP and P are permutations, E holds sixteen bits twice and sixteen once,
PC-1 and PC-2 are injective and leave out the bits the rule lists. -/
def Obligations.TablesHaveTheStatedProperties : Prop :=
  tableIP.entries.Perm (List.range' 1 64) ∧
  tableFP.entries.Perm (List.range' 1 64) ∧
  (∀ n : Fin 64, tableIP.entries[tableFP.entries[n.val]?.getD 0 - 1]? = some (n.val + 1)) ∧
  (∀ b ∈ List.range' 1 32, tableE.entries.count b =
    if b ∈ [1, 4, 5, 8, 9, 12, 13, 16, 17, 20, 21, 24, 25, 28, 29, 32] then 2 else 1) ∧
  tableP.entries.Perm (List.range' 1 32) ∧
  tablePC1.entries.Nodup ∧
  (List.range' 1 64).filter (fun b => !tablePC1.entries.contains b) = [8, 16, 24, 32, 40, 48, 56, 64] ∧
  tablePC2.entries.Nodup ∧
  (List.range' 1 56).filter (fun b => !tablePC2.entries.contains b) = [9, 18, 22, 25, 35, 38, 43, 54]

/-- R104: FP is the inverse of IP, in the tables and for every 64-bit value. -/
def Obligations.FinalPermutationInvertsTheInitial : Prop :=
  (∀ n : Nat, 1 ≤ n → n ≤ 64 → ∃ m, tableFP.entries[n - 1]? = some m ∧ tableIP.entries[m - 1]? = some n) ∧
  (∀ v : Block, fpperm (ipperm v) = v ∧ ipperm (fpperm v) = v)

/-- Expansion (R140, R141), in the source's words: row `g` of the output holds input group `g`, flanked by the last bit of
the group before it and the first bit of the group after it, counted cyclically. -/
def Obligations.ExpansionFlanksEachGroup : Prop :=
  ∀ (r : HalfBlock) (g k : Nat), g < 8 → k < 6 →
    desBit (expand r) (6 * g + k + 1) = desBit r ((4 * g + k + 31) % 32 + 1)

/-- The S-box bank (R120, R121): nibble `j` of the output, at bits `[35-4j : 32-4j]`, is `S_j[row][col]` with the row from
the first and the last bit of sextet `j` and the column from its middle four, the first bit most significant. -/
def Obligations.SBoxBankLooksUpEachSextet : Prop :=
  ∀ (x : ExpandedHalf) (j : Fin 8) (row : Fin 4) (col : Fin 16),
    row.val = 2 * (desBit x (6 * j.val + 1)).toNat + (desBit x (6 * j.val + 6)).toNat →
    col.val = 8 * (desBit x (6 * j.val + 2)).toNat + 4 * (desBit x (6 * j.val + 3)).toNat +
      2 * (desBit x (6 * j.val + 4)).toNat + (desBit x (6 * j.val + 5)).toNat →
    ((sbox x).extractLsb' (28 - 4 * j.val) 4).toNat = (sboxTable j).rows[row][col]

/-- Every row of every S-box is a permutation of 0..15 (R130). -/
def Obligations.SBoxRowsArePermutations : Prop :=
  ∀ (j : Fin 8) (r : Fin 4), ((sboxTable j).rows[r]).toList.Perm (List.range 16)

/-- The Feistel round can be undone for every round key, though `f` need not be invertible (R182). -/
def Obligations.FeistelRoundIsInvertible : Prop :=
  ∀ (l r : HalfBlock) (k : RoundKey),
    (feistel l r k).1 = r ∧ bitwiseXor (feistel l r k).2 (feistelF (feistel l r k).1 k) = l

/-- R163: the rotation schedule in order, its sum 28, and that the key halves return to their first values after round
16, for every key. -/
def Obligations.RotationScheduleReturnsTheKeyHalves : Prop :=
  (∀ i : Nat, 1 ≤ i → i ≤ 16 → roundShift i = if i ∈ [1, 2, 9, 16] then 1 else 2) ∧
  roundShifts = [1, 1, 2, 2, 2, 2, 2, 2, 1, 2, 2, 2, 2, 2, 2, 1] ∧ roundShifts.sum = 28 ∧
  (∀ key : MasterKey, keyHalves key 16 = keyHalves key 0)

/-- R166: the schedule has exactly sixteen round keys, the `i`-th of them PC-2 of `C[i] ++ D[i]`, the halves being those of
PC-1 rotated on from one to the next. -/
def Obligations.KeyScheduleListsTheSixteenRoundKeys : Prop :=
  ∀ key : MasterKey, (keysched key).length = 16 ∧
    keyHalves key 0 = pc1split key ∧
    ∀ i : Nat, 1 ≤ i → i ≤ 16 →
      keyHalves key i = (rotl28 (keyHalves key (i - 1)).1 (roundShift i), rotl28 (keyHalves key (i - 1)).2 (roundShift i)) ∧
      (keysched key)[i - 1]? = some (roundkey (keyHalves key i).1 (keyHalves key i).2)

/-- R167: after the IP edge `C` and `D` are `C[0]` and `D[0]`, and a round that starts from the halves `i - 1` uses `K_i` of
`keysched(KEY)` and leaves the halves `i`. The first clause takes exec of IP in every state, which is the model's choice
(log entry 5, DEDUCED). -/
def Obligations.EachRoundConsumesItsRoundKey : Prop :=
  (∀ s t : State, exec .ip s = .next t → (t.C, t.D) = keyHalves t.KEY 0) ∧
  (∀ (s : State) (i : Nat), 1 ≤ i → i ≤ 16 → s.STATE.toNat = i + 1 → s.pins.rst = false →
    (s.C, s.D) = keyHalves s.KEY (i - 1) →
    ∃ K t, (keysched s.KEY)[i - 1]? = some K ∧ step s = .next t ∧ t.L = s.R ∧ t.R = s.L ^^^ feistelF s.R K ∧
      (t.C, t.D) = keyHalves t.KEY i)

/-- The parity bits 8, 16, ..., 64 of the key are ignored (R160): keys that agree on the other bits give the same key
halves and the same ciphertext. -/
def Obligations.ParityBitsAreIgnored : Prop :=
  ∀ k k' : MasterKey, (∀ n : Nat, 1 ≤ n → n ≤ 64 → n % 8 ≠ 0 → desBit k n = desBit k' n) →
    pc1split k = pc1split k' ∧ ∀ b : Block, desEncrypt b k = desEncrypt b k'

/-- The inversion law of R185 (a): the pipeline with the reversed key list undoes the pipeline, for every key list. -/
def Obligations.ReversedKeyListInvertsThePipeline : Prop :=
  ∀ (b : Block) (ks : List RoundKey), desCore (desCore b ks) ks.reverse = b

/-- The complementation law of R185 (b). -/
def Obligations.ComplementationLaw : Prop :=
  ∀ (b : Block) (k : MasterKey), desEncrypt (~~~b) (~~~k) = ~~~(desEncrypt b k)

/-- The byte view of a port value (R43, R60): byte `k` holds DES bits `8k+1` .. `8k+8` in order, and the eight bytes, the
first one most significant, give the value back. -/
def Obligations.PortBytesAreBigEndian : Prop :=
  (∀ (v : Block) (k : Fin 8) (n : Nat), 1 ≤ n → n ≤ 8 → desBit (portByte v k) n = desBit v (8 * k.val + n)) ∧
  (∀ v : Block, portOfBytes #v[portByte v 0, portByte v 1, portByte v 2, portByte v 3,
    portByte v 4, portByte v 5, portByte v 6, portByte v 7] = v)

/-! ## The units of a round, in the spec's own steps -/

/-- R150: `f` is E, XOR with the round key, the S-boxes and P, in this order; it depends on its operands only through the
XOR; and the rule's corner cases and example. -/
def Obligations.RoundFunctionIsItsFourSteps : Prop :=
  (∀ (r : HalfBlock) (k : RoundKey), feistelF r k = perm tableP (sbox (perm tableE r ^^^ k))) ∧
  (∀ (r r' : HalfBlock) (k k' : RoundKey), expand r ^^^ k = expand r' ^^^ k' → feistelF r k = feistelF r' k') ∧
  feistelF 0x00000000 0x000000000000 = 0xD8D8DBBC ∧
  feistelF 0xFFFFFFFF 0x000000000000 = 0x38DBF9CB ∧ feistelF 0x00000000 0xFFFFFFFFFFFF = 0x38DBF9CB ∧
  feistelF 0xF0AAF0AA 0x1B02EFFC7072 = 0x234AA9BB

/-- R162: the leading `n` bits move to the trailing end and the others keep their order, as the rule's slices and bit by
bit; rotation by 28 is the identity; and the rule's corner cases and example. -/
def Obligations.RotationMovesTheLeadingBits : Prop :=
  (∀ v : KeyHalf,
    rotl28 v 1 = v.extractLsb' 0 27 ++ v.extractLsb' 27 1 ∧ rotl28 v 2 = v.extractLsb' 0 26 ++ v.extractLsb' 26 2 ∧
    (∀ n m : Nat, n = 1 ∨ n = 2 → 1 ≤ m → m ≤ 28 →
      desBit (rotl28 v n) m = if m ≤ 28 - n then desBit v (m + n) else desBit v (m + n - 28)) ∧
    rotl28 v 28 = v) ∧
  (∀ n : Nat, n = 1 ∨ n = 2 → rotl28 0x0000000 n = 0x0000000 ∧ rotl28 0xFFFFFFF n = 0xFFFFFFF) ∧
  rotl28 0x8000000 1 = 0x0000001 ∧ rotl28 0x8000000 2 = 0x0000002 ∧ rotl28 0xC000000 2 = 0x0000003 ∧
  rotl28 0xFFFFFFE 1 = 0xFFFFFFD ∧ rotl28 0xF0CCAAF 1 = 0xE19955F

/-- R165: the round key is PC-2 of `c ++ d`, its first 24 bits from `c` and its last 24 from `d` (R164); a key whose halves
are each all zeros or all ones gives sixteen equal round keys; and the rule's corner cases and example. -/
def Obligations.RoundKeySelectsFromBothHalves : Prop :=
  (∀ c d : KeyHalf, roundkey c d = perm tablePC2 (c ++ d) ∧
    ∀ n : Nat, 1 ≤ n → n ≤ 48 → ∃ e, tablePC2.entries[n - 1]? = some e ∧
      (n ≤ 24 → 1 ≤ e ∧ e ≤ 28 ∧ desBit (roundkey c d) n = desBit c e) ∧
      (25 ≤ n → 29 ≤ e ∧ e ≤ 56 ∧ desBit (roundkey c d) n = desBit d (e - 28))) ∧
  (∀ key : MasterKey, (pc1split key).1 = 0x0000000 ∨ (pc1split key).1 = 0xFFFFFFF →
    (pc1split key).2 = 0x0000000 ∨ (pc1split key).2 = 0xFFFFFFF → ∃ K, keysched key = List.replicate 16 K) ∧
  roundkey 0x0000000 0x0000000 = 0x000000000000 ∧ roundkey 0xFFFFFFF 0xFFFFFFF = 0xFFFFFFFFFFFF ∧
  roundkey 0xE19955F 0xAACCF1E = 0x1B02EFFC7072
end

