-- ==== Sys2Proof/Laws/Datapath.lean ====
section
/-! SUPPORT. What the combinational units do to single bits: one lemma for PermutationEngine, from which the facts about
each table follow, and the small lemmas of the other units. -/

namespace Sys2Proof.Machine

/-- DES bit `n` is bit `n - 1` counted from the most significant (R9). -/
theorem desBit_eq_getMsbD {w n : Nat} (v : BitVec w) (h1 : 1 ≤ n) (hn : n ≤ w) : desBit v n = v.getMsbD (n - 1) := by
  have h : w - n = w - 1 - (n - 1) := by omega
  simp [desBit, BitVec.getMsbD, h, show n - 1 < w by omega]

/-- Two values that agree on every DES bit are equal. -/
theorem eq_of_desBit {w : Nat} {a b : BitVec w} (h : ∀ n, 1 ≤ n → n ≤ w → desBit a n = desBit b n) : a = b := by
  apply BitVec.eq_of_getLsbD_eq
  intro i hi
  have := h (w - i) (by omega) (by omega)
  simpa [desBit, show w - (w - i) = i by omega] using this

/-- A bitwise complement, bit by bit. -/
theorem desBit_not {w n : Nat} (v : BitVec w) (h1 : 1 ≤ n) (hn : n ≤ w) : desBit (~~~v) n = !desBit v n := by
  simp [desBit, show w - n < w by omega]

theorem desBit_allOnes {w n : Nat} (h1 : 1 ≤ n) (hn : n ≤ w) : desBit (BitVec.allOnes w) n = true := by
  simp [desBit, show w - n < w by omega]

theorem desBit_zero {w n : Nat} : desBit (0 : BitVec w) n = false := by
  simp [desBit]

/-- Entry `n` of a table, counted from 1, is a bit of the input (R101). -/
theorem Table.entry_inRange {wIn wOut : Nat} (T : Table wIn wOut) {n : Nat} (hn : n < T.entries.length) :
    1 ≤ T.entries[n] ∧ T.entries[n] ≤ wIn :=
  T.inRange _ (List.getElem_mem hn)

/-- PermutationEngine: output DES bit `n` is input DES bit `T[n]` (R100). -/
theorem desBit_perm {wIn wOut : Nat} (T : Table wIn wOut) (v : BitVec wIn) {n : Nat} (h1 : 1 ≤ n) (hn : n ≤ wOut) :
    desBit (perm T v) n = desBit v (T.entries[n - 1]'(by rw [T.length_eq]; omega)) := by
  have hl : n - 1 < T.entries.length := by rw [T.length_eq]; omega
  rw [desBit_eq_getMsbD _ h1 hn]
  simp [perm, List.getD_eq_getElem?_getD, List.getElem?_eq_getElem hl]

/-- A permutation moves bits, so it carries a complement through. -/
theorem perm_not {wIn wOut : Nat} (T : Table wIn wOut) (v : BitVec wIn) : perm T (~~~v) = ~~~(perm T v) := by
  apply eq_of_desBit
  intro n h1 hn
  have hr := T.entry_inRange (n := n - 1) (by rw [T.length_eq]; omega)
  rw [desBit_perm T _ h1 hn, desBit_not _ h1 hn, desBit_perm T _ h1 hn, desBit_not _ hr.1 hr.2]

/-- Values that agree on the bits a table names have the same image. -/
theorem perm_congr {wIn wOut : Nat} (T : Table wIn wOut) {v v' : BitVec wIn}
    (h : ∀ e ∈ T.entries, desBit v e = desBit v' e) : perm T v = perm T v' := by
  apply eq_of_desBit
  intro n h1 hn
  rw [desBit_perm T _ h1 hn, desBit_perm T _ h1 hn]
  exact h _ (List.getElem_mem _)

/-- XOR with the same value twice cancels (R110). -/
theorem bitwiseXor_cancel {w : Nat} (a b : BitVec w) : bitwiseXor (bitwiseXor a b) b = a := by
  simp [bitwiseXor]

/-- Two complements cancel in an XOR. -/
theorem bitwiseXor_not_not {w : Nat} (a b : BitVec w) : bitwiseXor (~~~a) (~~~b) = bitwiseXor a b := by
  apply BitVec.eq_of_getLsbD_eq
  intro i hi
  simp [bitwiseXor, hi]

theorem bitwiseXor_not_left {w : Nat} (a b : BitVec w) : bitwiseXor (~~~a) b = ~~~(bitwiseXor a b) := by
  apply BitVec.eq_of_getLsbD_eq
  intro i hi
  simp [bitwiseXor, hi]

/-- Bit `i` of a left rotation by `n` is the bit `n` places below it, counted around (R162). -/
theorem getLsbD_rotl28 (v : KeyHalf) (n : Nat) {i : Nat} (hi : i < 28) :
    (rotl28 v n).getLsbD i = v.getLsbD ((i + 28 - n % 28) % 28) := by
  simp only [rotl28, BitVec.getLsbD_rotateLeft]
  by_cases h : i < n % 28
  · simp only [h, decide_true, cond_true]
    congr 1
    omega
  · simp only [h, decide_false, cond_false, hi, decide_true, Bool.true_and]
    congr 1
    omega

/-- The rotation in the slices of R162, for the two amounts the engine uses. -/
theorem rotl28_one (v : KeyHalf) : rotl28 v 1 = v.extractLsb' 0 27 ++ v.extractLsb' 27 1 := by
  apply BitVec.eq_of_getLsbD_eq
  intro i hi
  rw [getLsbD_rotl28 v 1 hi, BitVec.getLsbD_append]
  by_cases h : i < 1
  · have : i = 0 := by omega
    subst this
    simp
  · simp [h, show (i + 27) % 28 = i - 1 by omega, show i - 1 < 27 by omega]

theorem rotl28_two (v : KeyHalf) : rotl28 v 2 = v.extractLsb' 0 26 ++ v.extractLsb' 26 2 := by
  apply BitVec.eq_of_getLsbD_eq
  intro i hi
  rw [getLsbD_rotl28 v 2 hi, BitVec.getLsbD_append]
  by_cases h : i < 2
  · simp [h, show (i + 26) % 28 = 26 + i by omega]
  · simp [h, show (i + 26) % 28 = i - 2 by omega, show i - 2 < 26 by omega]

/-- A rotation moves bits, so it carries a complement through. -/
theorem rotl28_not (v : KeyHalf) (n : Nat) : rotl28 (~~~v) n = ~~~(rotl28 v n) := by
  apply BitVec.eq_of_getLsbD_eq
  intro i hi
  rw [BitVec.getLsbD_not, getLsbD_rotl28 _ _ hi, getLsbD_rotl28 _ _ hi, BitVec.getLsbD_not]
  simp [hi, Nat.mod_lt]

/-- Rotations add up. -/
theorem rotl28_rotl28 (v : KeyHalf) (a b : Nat) : rotl28 (rotl28 v a) b = rotl28 v (a + b) := by
  apply BitVec.eq_of_getLsbD_eq
  intro i hi
  rw [getLsbD_rotl28 _ _ hi, getLsbD_rotl28 _ _ (Nat.mod_lt _ (by omega)), getLsbD_rotl28 _ _ hi]
  congr 1
  omega

/-- Rotation by 28 is the identity (R162). -/
theorem rotl28_28 (v : KeyHalf) : rotl28 v 28 = v := by
  apply BitVec.eq_of_getLsbD_eq
  intro i hi
  rw [getLsbD_rotl28 _ _ hi]
  congr 1
  omega

/-- The two halves of a 64-bit value, put together again (R181). -/
theorem ipsplit_append (w : Block) : (ipsplit w).1 ++ (ipsplit w).2 = w := by
  apply BitVec.eq_of_getLsbD_eq
  intro i hi
  simp only [ipsplit, BitVec.getLsbD_append]
  by_cases h : i < 32
  · simp [h]
  · simp [h, show i - 32 < 32 by omega, show 32 + (i - 32) = i by omega]

theorem ipsplit_of_append (l r : HalfBlock) : ipsplit (l ++ r) = (l, r) := by
  refine Prod.ext ?_ ?_ <;> apply BitVec.eq_of_getLsbD_eq <;> intro i hi
  · rw [ipsplit, BitVec.getLsbD_extractLsb', BitVec.getLsbD_append]
    simp [hi]
  · rw [ipsplit, BitVec.getLsbD_extractLsb', BitVec.getLsbD_append]
    simp [hi]

end Sys2Proof.Machine
end

