-- ==== Sys2Proof/Laws/Cipher.lean ====
section
/-! SUPPORT. The small lemmas of the key schedule and of the pipeline function, and how complements pass through slices
and concatenations. -/

namespace Sys2Proof.Machine

@[simp] theorem keyHalves_zero (key : MasterKey) : keyHalves key 0 = pc1split key := rfl

theorem keyHalves_succ (key : MasterKey) (i : Nat) :
    keyHalves key (i + 1) =
      (rotl28 (keyHalves key i).1 (roundShift (i + 1)), rotl28 (keyHalves key i).2 (roundShift (i + 1))) := rfl

/-- There are as many round keys as rotation amounts. -/
theorem keyschedFrom_length (c d : KeyHalf) (ns : List Nat) : (keyschedFrom c d ns).length = ns.length := by
  induction ns generalizing c d with
  | nil => rfl
  | cons n ns ih => simp [keyschedFrom, ih]

/-- The round keys formed from the halves of rule R166 at `i` are PC-2 of the halves that follow. -/
theorem keyschedFrom_getElem? (key : MasterKey) (n : Nat) : ∀ i j, j < n →
    (keyschedFrom (keyHalves key i).1 (keyHalves key i).2 ((List.range' (i + 1) n).map roundShift))[j]? =
      some (roundkey (keyHalves key (i + 1 + j)).1 (keyHalves key (i + 1 + j)).2) := by
  induction n with
  | zero => exact fun i j hj => absurd hj (by omega)
  | succ n ih =>
    intro i j hj
    simp only [List.range'_succ, List.map_cons, keyschedFrom]
    cases j with
    | zero => simp [keyHalves_succ]
    | succ j =>
      have h := ih (i + 1) j (by omega)
      rw [keyHalves_succ] at h
      rw [List.getElem?_cons_succ, h, show i + 1 + 1 + j = i + 1 + (j + 1) by omega]

/-- The rounds over two key lists, one after the other. -/
theorem feistelRounds_append (l r : HalfBlock) (ks ks' : List RoundKey) :
    feistelRounds l r (ks ++ ks') = feistelRounds (feistelRounds l r ks).1 (feistelRounds l r ks).2 ks' := by
  induction ks generalizing l r with
  | nil => rfl
  | cons k ks ih => simp [feistelRounds, ih]

/-- The halves before round 1 (R181). -/
theorem roundHalves_zero (b : Block) (k : MasterKey) : roundHalves b k 0 = ipsplit (ipperm b) := rfl

/-- One round more takes one round key more (R180). -/
theorem roundHalves_succ (b : Block) (k : MasterKey) {i : Nat} {K : RoundKey} (hK : (keysched k)[i]? = some K) :
    roundHalves b k (i + 1) = feistel (roundHalves b k i).1 (roundHalves b k i).2 K := by
  simp only [roundHalves, List.take_add_one, hK, Option.toList_some]
  rw [feistelRounds_append]
  rfl

/-- The final swap exchanges the halves (R183). -/
theorem ipsplit_preOutput (lr : HalfBlock × HalfBlock) : ipsplit (preOutput lr) = (lr.2, lr.1) :=
  ipsplit_of_append lr.2 lr.1

/-- A complement passes through a concatenation. -/
theorem append_not {v w : Nat} (x : BitVec v) (y : BitVec w) : (~~~x) ++ (~~~y) = ~~~(x ++ y) := by
  apply BitVec.eq_of_getLsbD_eq
  intro i hi
  simp only [BitVec.getLsbD_append, BitVec.getLsbD_not]
  by_cases h : i < w
  · simp [h]
    omega
  · simp [h, show i - w < v by omega, hi]

/-- A complement passes through a slice. -/
theorem extractLsb'_not {w : Nat} (x : BitVec w) (start len : Nat) (h : start + len ≤ w) :
    (~~~x).extractLsb' start len = ~~~(x.extractLsb' start len) := by
  apply BitVec.eq_of_getLsbD_eq
  intro i hi
  rw [BitVec.getLsbD_extractLsb', BitVec.getLsbD_not, BitVec.getLsbD_not, BitVec.getLsbD_extractLsb']
  simp [hi, show start + i < w by omega]

end Sys2Proof.Machine
end

