-- ==== Sys2Proof/Laws/State.lean ====
section
/-! SUPPORT. One lemma per field and register transfer: what the field holds after the edge. -/

namespace Sys2Proof.Machine

/-! RESET (R400) -/

@[simp] theorem resetEdge_STATE (s : State) : (resetEdge s).STATE = 0 := rfl
@[simp] theorem resetEdge_BLK (s : State) : (resetEdge s).BLK = 0 := rfl
@[simp] theorem resetEdge_KEY (s : State) : (resetEdge s).KEY = 0 := rfl
@[simp] theorem resetEdge_L (s : State) : (resetEdge s).L = 0 := rfl
@[simp] theorem resetEdge_R (s : State) : (resetEdge s).R = 0 := rfl
@[simp] theorem resetEdge_C (s : State) : (resetEdge s).C = 0 := rfl
@[simp] theorem resetEdge_D (s : State) : (resetEdge s).D = 0 := rfl
@[simp] theorem resetEdge_RES (s : State) : (resetEdge s).RES = 0 := rfl
@[simp] theorem resetEdge_pins (s : State) : (resetEdge s).pins = s.pins := rfl
@[simp] theorem resetEdge_inputs (s : State) : (resetEdge s).inputs = s.inputs := rfl
@[simp] theorem resetEdge_cycle (s : State) : (resetEdge s).cycle = s.cycle := rfl

/-! ACCEPT (R190) -/

@[simp] theorem acceptEdge_STATE (s : State) : (acceptEdge s).STATE = 1 := rfl
@[simp] theorem acceptEdge_BLK (s : State) : (acceptEdge s).BLK = s.pins.blockIn := rfl
@[simp] theorem acceptEdge_KEY (s : State) : (acceptEdge s).KEY = s.pins.keyIn := rfl
@[simp] theorem acceptEdge_L (s : State) : (acceptEdge s).L = s.L := rfl
@[simp] theorem acceptEdge_R (s : State) : (acceptEdge s).R = s.R := rfl
@[simp] theorem acceptEdge_C (s : State) : (acceptEdge s).C = s.C := rfl
@[simp] theorem acceptEdge_D (s : State) : (acceptEdge s).D = s.D := rfl
@[simp] theorem acceptEdge_RES (s : State) : (acceptEdge s).RES = s.RES := rfl
@[simp] theorem acceptEdge_pins (s : State) : (acceptEdge s).pins = s.pins := rfl
@[simp] theorem acceptEdge_inputs (s : State) : (acceptEdge s).inputs = s.inputs := rfl
@[simp] theorem acceptEdge_cycle (s : State) : (acceptEdge s).cycle = s.cycle := rfl

/-! IP (R191) -/

@[simp] theorem ipEdge_STATE (s : State) : (ipEdge s).STATE = 2 := rfl
@[simp] theorem ipEdge_BLK (s : State) : (ipEdge s).BLK = s.BLK := rfl
@[simp] theorem ipEdge_KEY (s : State) : (ipEdge s).KEY = s.KEY := rfl
@[simp] theorem ipEdge_L (s : State) : (ipEdge s).L = (ipsplit (ipperm s.BLK)).1 := rfl
@[simp] theorem ipEdge_R (s : State) : (ipEdge s).R = (ipsplit (ipperm s.BLK)).2 := rfl
@[simp] theorem ipEdge_C (s : State) : (ipEdge s).C = (pc1split s.KEY).1 := rfl
@[simp] theorem ipEdge_D (s : State) : (ipEdge s).D = (pc1split s.KEY).2 := rfl
@[simp] theorem ipEdge_RES (s : State) : (ipEdge s).RES = s.RES := rfl
@[simp] theorem ipEdge_pins (s : State) : (ipEdge s).pins = s.pins := rfl
@[simp] theorem ipEdge_inputs (s : State) : (ipEdge s).inputs = s.inputs := rfl
@[simp] theorem ipEdge_cycle (s : State) : (ipEdge s).cycle = s.cycle := rfl

/-! ROUNDi (R192) -/

@[simp] theorem roundEdge_STATE (i : Nat) (s : State) : (roundEdge i s).STATE = BitVec.ofNat 5 (i + 2) := rfl
@[simp] theorem roundEdge_BLK (i : Nat) (s : State) : (roundEdge i s).BLK = s.BLK := rfl
@[simp] theorem roundEdge_KEY (i : Nat) (s : State) : (roundEdge i s).KEY = s.KEY := rfl
@[simp] theorem roundEdge_L (i : Nat) (s : State) : (roundEdge i s).L = s.R := rfl
@[simp] theorem roundEdge_R (i : Nat) (s : State) : (roundEdge i s).R = bitwiseXor s.L (feistelF s.R (currentRoundKey i s)) := rfl
@[simp] theorem roundEdge_C (i : Nat) (s : State) : (roundEdge i s).C = rotl28 s.C (roundShift i) := rfl
@[simp] theorem roundEdge_D (i : Nat) (s : State) : (roundEdge i s).D = rotl28 s.D (roundShift i) := rfl
@[simp] theorem roundEdge_RES (i : Nat) (s : State) : (roundEdge i s).RES = s.RES := rfl
@[simp] theorem roundEdge_pins (i : Nat) (s : State) : (roundEdge i s).pins = s.pins := rfl
@[simp] theorem roundEdge_inputs (i : Nat) (s : State) : (roundEdge i s).inputs = s.inputs := rfl
@[simp] theorem roundEdge_cycle (i : Nat) (s : State) : (roundEdge i s).cycle = s.cycle := rfl

/-! SWAP (R193) -/

@[simp] theorem swapEdge_STATE (s : State) : (swapEdge s).STATE = 19 := rfl
@[simp] theorem swapEdge_BLK (s : State) : (swapEdge s).BLK = s.BLK := rfl
@[simp] theorem swapEdge_KEY (s : State) : (swapEdge s).KEY = s.KEY := rfl
@[simp] theorem swapEdge_L (s : State) : (swapEdge s).L = s.R := rfl
@[simp] theorem swapEdge_R (s : State) : (swapEdge s).R = s.L := rfl
@[simp] theorem swapEdge_C (s : State) : (swapEdge s).C = s.C := rfl
@[simp] theorem swapEdge_D (s : State) : (swapEdge s).D = s.D := rfl
@[simp] theorem swapEdge_RES (s : State) : (swapEdge s).RES = s.RES := rfl
@[simp] theorem swapEdge_pins (s : State) : (swapEdge s).pins = s.pins := rfl
@[simp] theorem swapEdge_inputs (s : State) : (swapEdge s).inputs = s.inputs := rfl
@[simp] theorem swapEdge_cycle (s : State) : (swapEdge s).cycle = s.cycle := rfl

/-! FP (R194) -/

@[simp] theorem fpEdge_STATE (s : State) : (fpEdge s).STATE = 20 := rfl
@[simp] theorem fpEdge_BLK (s : State) : (fpEdge s).BLK = s.BLK := rfl
@[simp] theorem fpEdge_KEY (s : State) : (fpEdge s).KEY = s.KEY := rfl
@[simp] theorem fpEdge_L (s : State) : (fpEdge s).L = s.L := rfl
@[simp] theorem fpEdge_R (s : State) : (fpEdge s).R = s.R := rfl
@[simp] theorem fpEdge_C (s : State) : (fpEdge s).C = s.C := rfl
@[simp] theorem fpEdge_D (s : State) : (fpEdge s).D = s.D := rfl
@[simp] theorem fpEdge_RES (s : State) : (fpEdge s).RES = fpperm (s.L ++ s.R) := rfl
@[simp] theorem fpEdge_pins (s : State) : (fpEdge s).pins = s.pins := rfl
@[simp] theorem fpEdge_inputs (s : State) : (fpEdge s).inputs = s.inputs := rfl
@[simp] theorem fpEdge_cycle (s : State) : (fpEdge s).cycle = s.cycle := rfl

/-! RESERVED (R197) -/

@[simp] theorem reservedEdge_STATE (s : State) : (reservedEdge s).STATE = 0 := rfl
@[simp] theorem reservedEdge_BLK (s : State) : (reservedEdge s).BLK = s.BLK := rfl
@[simp] theorem reservedEdge_KEY (s : State) : (reservedEdge s).KEY = s.KEY := rfl
@[simp] theorem reservedEdge_L (s : State) : (reservedEdge s).L = s.L := rfl
@[simp] theorem reservedEdge_R (s : State) : (reservedEdge s).R = s.R := rfl
@[simp] theorem reservedEdge_C (s : State) : (reservedEdge s).C = s.C := rfl
@[simp] theorem reservedEdge_D (s : State) : (reservedEdge s).D = s.D := rfl
@[simp] theorem reservedEdge_RES (s : State) : (reservedEdge s).RES = s.RES := rfl
@[simp] theorem reservedEdge_pins (s : State) : (reservedEdge s).pins = s.pins := rfl
@[simp] theorem reservedEdge_inputs (s : State) : (reservedEdge s).inputs = s.inputs := rfl
@[simp] theorem reservedEdge_cycle (s : State) : (reservedEdge s).cycle = s.cycle := rfl

/-! the ports going on to the next cycle (R48) -/

@[simp] theorem advancePins_STATE (s : State) : (advancePins s).STATE = s.STATE := rfl
@[simp] theorem advancePins_BLK (s : State) : (advancePins s).BLK = s.BLK := rfl
@[simp] theorem advancePins_KEY (s : State) : (advancePins s).KEY = s.KEY := rfl
@[simp] theorem advancePins_L (s : State) : (advancePins s).L = s.L := rfl
@[simp] theorem advancePins_R (s : State) : (advancePins s).R = s.R := rfl
@[simp] theorem advancePins_C (s : State) : (advancePins s).C = s.C := rfl
@[simp] theorem advancePins_D (s : State) : (advancePins s).D = s.D := rfl
@[simp] theorem advancePins_RES (s : State) : (advancePins s).RES = s.RES := rfl
@[simp] theorem advancePins_pins (s : State) : (advancePins s).pins = nextPins s := rfl
@[simp] theorem advancePins_inputs (s : State) : (advancePins s).inputs = s.inputs.tail := rfl
@[simp] theorem advancePins_cycle (s : State) : (advancePins s).cycle = s.cycle + 1 := rfl

/-! placing a control word (R61) -/

@[simp] theorem placeCtrl_STATE (s : State) (w : Nat) : (placeCtrl s w).STATE = s.STATE := rfl
@[simp] theorem placeCtrl_BLK (s : State) (w : Nat) : (placeCtrl s w).BLK = s.BLK := rfl
@[simp] theorem placeCtrl_KEY (s : State) (w : Nat) : (placeCtrl s w).KEY = s.KEY := rfl
@[simp] theorem placeCtrl_L (s : State) (w : Nat) : (placeCtrl s w).L = s.L := rfl
@[simp] theorem placeCtrl_R (s : State) (w : Nat) : (placeCtrl s w).R = s.R := rfl
@[simp] theorem placeCtrl_C (s : State) (w : Nat) : (placeCtrl s w).C = s.C := rfl
@[simp] theorem placeCtrl_D (s : State) (w : Nat) : (placeCtrl s w).D = s.D := rfl
@[simp] theorem placeCtrl_RES (s : State) (w : Nat) : (placeCtrl s w).RES = s.RES := rfl
@[simp] theorem placeCtrl_pins (s : State) (w : Nat) : (placeCtrl s w).pins = { s.pins with rst := w.testBit 1, start := w.testBit 0 } := rfl
@[simp] theorem placeCtrl_inputs (s : State) (w : Nat) : (placeCtrl s w).inputs = s.inputs := rfl
@[simp] theorem placeCtrl_cycle (s : State) (w : Nat) : (placeCtrl s w).cycle = s.cycle := rfl

/-! placing a state code (R63) -/

@[simp] theorem placeStateCode_STATE (s : State) (w : Nat) : (placeStateCode s w).STATE = BitVec.ofNat 5 w := rfl
@[simp] theorem placeStateCode_BLK (s : State) (w : Nat) : (placeStateCode s w).BLK = s.BLK := rfl
@[simp] theorem placeStateCode_KEY (s : State) (w : Nat) : (placeStateCode s w).KEY = s.KEY := rfl
@[simp] theorem placeStateCode_L (s : State) (w : Nat) : (placeStateCode s w).L = s.L := rfl
@[simp] theorem placeStateCode_R (s : State) (w : Nat) : (placeStateCode s w).R = s.R := rfl
@[simp] theorem placeStateCode_C (s : State) (w : Nat) : (placeStateCode s w).C = s.C := rfl
@[simp] theorem placeStateCode_D (s : State) (w : Nat) : (placeStateCode s w).D = s.D := rfl
@[simp] theorem placeStateCode_RES (s : State) (w : Nat) : (placeStateCode s w).RES = s.RES := rfl
@[simp] theorem placeStateCode_pins (s : State) (w : Nat) : (placeStateCode s w).pins = { s.pins with rst := false } := rfl
@[simp] theorem placeStateCode_inputs (s : State) (w : Nat) : (placeStateCode s w).inputs = s.inputs := rfl
@[simp] theorem placeStateCode_cycle (s : State) (w : Nat) : (placeStateCode s w).cycle = s.cycle := rfl

/-! HOLD, and the edge of IDLE and DONE (R190, R195) -/

@[simp] theorem holdEdge_eq (s : State) : holdEdge s = s := rfl

@[simp] theorem idleEdge_true (s : State) : idleEdge true s = acceptEdge s := rfl

@[simp] theorem idleEdge_false (s : State) : idleEdge false s = s := rfl

end Sys2Proof.Machine
end

