-- ==== Sys2Proof/Laws/Ops.lean ====
section
/-! SUPPORT. What the sequencer's edge can do, said once: one equation for each range of codes, the list of its cases,
and the equations of one step. -/

namespace Sys2Proof.Machine

theorem sequencerEdge_rest {s : State} (start : Bool) (h : s.STATE.toNat = 0 ∨ s.STATE.toNat = 20) :
    sequencerEdge start s = idleEdge start s := by
  simp [sequencerEdge, h]

theorem sequencerEdge_ip {s : State} (start : Bool) (h : s.STATE.toNat = 1) :
    sequencerEdge start s = ipEdge s := by
  simp [sequencerEdge, h]

theorem sequencerEdge_round {s : State} {i : Nat} (start : Bool) (h1 : 1 ≤ i) (h16 : i ≤ 16)
    (h : s.STATE.toNat = i + 1) : sequencerEdge start s = roundEdge i s := by
  simp only [sequencerEdge, h]
  rw [if_neg (by omega), if_neg (by omega), if_pos (by omega), Nat.add_sub_cancel]

theorem sequencerEdge_swap {s : State} (start : Bool) (h : s.STATE.toNat = 18) :
    sequencerEdge start s = swapEdge s := by
  simp [sequencerEdge, h]

theorem sequencerEdge_fp {s : State} (start : Bool) (h : s.STATE.toNat = 19) :
    sequencerEdge start s = fpEdge s := by
  simp [sequencerEdge, h]

theorem sequencerEdge_reserved {s : State} (start : Bool) (h : 21 ≤ s.STATE.toNat) :
    sequencerEdge start s = reservedEdge s := by
  simp only [sequencerEdge]
  rw [if_neg (by omega), if_neg (by omega), if_neg (by omega), if_neg (by omega), if_neg (by omega)]

/-- Everything the sequencer can do at an edge with `rst = 0` (R200): exactly one of these micro-ops. -/
theorem sequencerEdge_cases (start : Bool) (s : State) :
    ((s.STATE.toNat = 0 ∨ s.STATE.toNat = 20) ∧ sequencerEdge start s = idleEdge start s) ∨
    (s.STATE.toNat = 1 ∧ sequencerEdge start s = ipEdge s) ∨
    (∃ i, 1 ≤ i ∧ i ≤ 16 ∧ s.STATE.toNat = i + 1 ∧ sequencerEdge start s = roundEdge i s) ∨
    (s.STATE.toNat = 18 ∧ sequencerEdge start s = swapEdge s) ∨
    (s.STATE.toNat = 19 ∧ sequencerEdge start s = fpEdge s) ∨
    (21 ≤ s.STATE.toNat ∧ sequencerEdge start s = reservedEdge s) := by
  by_cases h0 : s.STATE.toNat = 0 ∨ s.STATE.toNat = 20
  · exact .inl ⟨h0, sequencerEdge_rest start h0⟩
  by_cases h1 : s.STATE.toNat = 1
  · exact .inr (.inl ⟨h1, sequencerEdge_ip start h1⟩)
  by_cases h2 : s.STATE.toNat ≤ 17
  · exact .inr (.inr (.inl ⟨s.STATE.toNat - 1, by omega, by omega, by omega,
      sequencerEdge_round start (by omega) (by omega) (by omega)⟩))
  by_cases h3 : s.STATE.toNat = 18
  · exact .inr (.inr (.inr (.inl ⟨h3, sequencerEdge_swap start h3⟩)))
  by_cases h4 : s.STATE.toNat = 19
  · exact .inr (.inr (.inr (.inr (.inl ⟨h4, sequencerEdge_fp start h4⟩))))
  · exact .inr (.inr (.inr (.inr (.inr ⟨by omega, sequencerEdge_reserved start (by omega)⟩))))

/-- Outside IDLE and DONE the level of `start` makes no difference (R198). -/
theorem sequencerEdge_start_irrelevant {s : State} (h : ¬(s.STATE.toNat = 0 ∨ s.STATE.toNat = 20))
    (a b : Bool) : sequencerEdge a s = sequencerEdge b s := by
  simp [sequencerEdge, h]

/-- The edge does not touch the ports. -/
@[simp] theorem sequencerEdge_pins (start : Bool) (s : State) : (sequencerEdge start s).pins = s.pins := by
  rcases sequencerEdge_cases start s with ⟨_, h⟩ | ⟨_, h⟩ | ⟨i, _, _, _, h⟩ | ⟨_, h⟩ | ⟨_, h⟩ | ⟨_, h⟩ <;>
    rw [h] <;> first | rfl | (cases start <;> rfl)

@[simp] theorem sequencerEdge_inputs (start : Bool) (s : State) : (sequencerEdge start s).inputs = s.inputs := by
  rcases sequencerEdge_cases start s with ⟨_, h⟩ | ⟨_, h⟩ | ⟨i, _, _, _, h⟩ | ⟨_, h⟩ | ⟨_, h⟩ | ⟨_, h⟩ <;>
    rw [h] <;> first | rfl | (cases start <;> rfl)

@[simp] theorem sequencerEdge_cycle (start : Bool) (s : State) : (sequencerEdge start s).cycle = s.cycle := by
  rcases sequencerEdge_cases start s with ⟨_, h⟩ | ⟨_, h⟩ | ⟨i, _, _, _, h⟩ | ⟨_, h⟩ | ⟨_, h⟩ | ⟨_, h⟩ <;>
    rw [h] <;> first | rfl | (cases start <;> rfl)

end Sys2Proof.Machine
end

