-- ==== Sys2Proof/Laws/Step.lean ====
section
/-! SUPPORT. What one step can do, said once: a reset, or the micro-op that `STATE` selects, and then the ports go on. The
fetched command and its meaning are unfolded here and nowhere else. -/

namespace Sys2Proof.Machine

theorem fetch_reset {s : State} (h : s.pins.rst = true) : ∃ x, fetch s = .reset x := by
  rcases hs : s.pins.start <;> exact ⟨_, by simp [fetch, ctrl, decodeCtrl, h, hs]; rfl⟩

theorem fetch_nop {s : State} (hr : s.pins.rst = false) (hs : s.pins.start = false) : fetch s = .nop := by
  simp [fetch, ctrl, decodeCtrl, hr, hs]

theorem fetch_start {s : State} (hr : s.pins.rst = false) (hs : s.pins.start = true) : fetch s = .start := by
  simp [fetch, ctrl, decodeCtrl, hr, hs]

/-- START is the sequencer's edge with `start = 1` (R190, R198). -/
theorem execStart_eq (s : State) : execStart s = .next (sequencerEdge true s) := by
  by_cases h : s.STATE.toNat = 0 ∨ s.STATE.toNat = 20
  · simp [execStart, h, sequencerEdge_rest true h]
  · simp [execStart, h, sequencerEdge_start_irrelevant h false true]

/-- An edge with `rst = 1` (R400). -/
theorem step_of_rst {s : State} (h : s.pins.rst = true) : step s = .next (advancePins (resetEdge s)) := by
  obtain ⟨x, hx⟩ := fetch_reset h
  simp [step, hx, exec, execReset]

/-- An edge with `rst = 0` (R200). -/
theorem step_of_not_rst {s : State} (h : s.pins.rst = false) :
    step s = .next (advancePins (sequencerEdge s.pins.start s)) := by
  rcases hs : s.pins.start
  · simp [step, fetch_nop h hs, exec, execNop]
  · simp [step, fetch_start h hs, exec, execStart_eq]

/-- Every instruction answers a next state (R300). -/
theorem exec_next (i : Instr) (s : State) : ∃ t, exec i s = .next t := by
  cases i <;> first | exact ⟨_, rfl⟩ | exact ⟨_, execStart_eq s⟩

/-- Every step answers a next state (R300). -/
theorem step_next (s : State) : ∃ t, step s = .next t := by
  rcases h : s.pins.rst
  · exact ⟨_, step_of_not_rst h⟩
  · exact ⟨_, step_of_rst h⟩

/-- The next state's ports are the ones the host drives next. -/
theorem step_ports {s t : State} (h : step s = .next t) :
    t.pins = nextPins s ∧ t.inputs = s.inputs.tail ∧ t.cycle = s.cycle + 1 := by
  rcases hr : s.pins.rst
  · rw [step_of_not_rst hr] at h
    cases h
    simp [nextPins]
  · rw [step_of_rst hr] at h
    cases h
    simp [nextPins]

/-- A run of `n + 1` steps is a step and a run of `n`. -/
theorem run_succ (n : Nat) {s t : State} (h : step s = .next t) : core.run (n + 1) s = core.run n t := by
  have h' : core.step s = .next t := h
  simp [Host.Core.run, h']

theorem run_zero (s : State) : core.run 0 s = .next s := rfl

end Sys2Proof.Machine
end

