-- ==== Sys2Proof/Laws/Safety.lean ====
section
/-! SUPPORT. The small lemmas of Safety.lean's predicates, of state codes, and of runs. -/

namespace Sys2Proof.Machine

theorem sameRegisters_refl (s : State) : SameRegisters s s := ⟨rfl, rfl, rfl, rfl, rfl, rfl, rfl, rfl⟩

theorem sameRegisters_symm {s t : State} (h : SameRegisters s t) : SameRegisters t s := by
  obtain ⟨h1, h2, h3, h4, h5, h6, h7, h8⟩ := h
  exact ⟨h1.symm, h2.symm, h3.symm, h4.symm, h5.symm, h6.symm, h7.symm, h8.symm⟩

theorem sameRegisters_trans {s t u : State} (h : SameRegisters s t) (h' : SameRegisters t u) : SameRegisters s u := by
  obtain ⟨h1, h2, h3, h4, h5, h6, h7, h8⟩ := h
  obtain ⟨k1, k2, k3, k4, k5, k6, k7, k8⟩ := h'
  exact ⟨h1.trans k1, h2.trans k2, h3.trans k3, h4.trans k4, h5.trans k5, h6.trans k6, h7.trans k7, h8.trans k8⟩

/-- The ports' going on touches no register. -/
theorem sameRegisters_advancePins (s : State) : SameRegisters (advancePins s) s := ⟨rfl, rfl, rfl, rfl, rfl, rfl, rfl, rfl⟩

/-- A state code named as a numeral is the same as its number. -/
theorem code_eq_iff (c : StateCode) {n : Nat} (hn : n < 32) : c = BitVec.ofNat 5 n ↔ c.toNat = n := by
  constructor
  · rintro rfl
    simp
    omega
  · intro h
    apply BitVec.eq_of_toNat_eq
    simp
    omega

/-- The micro-op that a state code decodes to is the sequencer's edge (R63, R200). -/
theorem exec_decodeStateCode (s : State) :
    exec (decodeStateCode s.STATE) s = .next (sequencerEdge s.pins.start s) := by
  have codes : ∀ c : StateCode, c = 0 ∨ c = 20 ∨ c = 1 ∨ (∃ k : Fin 16, c = BitVec.ofNat 5 (k + 2)) ∨ c = 18 ∨ c = 19 ∨
      (21 ≤ c.toNat ∧ (decodeStateCode c = .reserved21 c ∨ decodeStateCode c = .reserved22 c ∨
        decodeStateCode c = .reserved24 c)) := by decide
  rcases codes s.STATE with h | h | h | ⟨k, h⟩ | h | h | ⟨h, h'⟩
  · rw [sequencerEdge_rest _ (.inl (by simp [h])), h]
    rfl
  · rw [sequencerEdge_rest _ (.inr (by simp [h])), h]
    rfl
  · rw [sequencerEdge_ip _ (by simp [h]), h]
    rfl
  · rw [sequencerEdge_round (i := k.val + 1) _ (by omega) (by omega) (by rw [h]; simp; omega), h]
    fin_cases k <;> rfl
  · rw [sequencerEdge_swap _ (by simp [h]), h]
    rfl
  · rw [sequencerEdge_fp _ (by simp [h]), h]
    rfl
  · rw [sequencerEdge_reserved _ h]
    rcases h' with h' | h' | h' <;> rw [h'] <;> rfl

/-- A round with shift 1, in the steps written out (R150, R162, R165, R192). -/
theorem roundEdge_of_shift1 {i : Nat} (h : roundShift i = 1) (s : State) :
    roundEdge i s = afterRoundShift1 (BitVec.ofNat 5 (i + 2)) s := by
  simp only [roundEdge, currentRoundKey, h, rotl28_one]
  rfl

/-- A round with shift 2, in the steps written out (R150, R162, R165, R192). -/
theorem roundEdge_of_shift2 {i : Nat} (h : roundShift i = 2) (s : State) :
    roundEdge i s = afterRoundShift2 (BitVec.ofNat 5 (i + 2)) s := by
  simp only [roundEdge, currentRoundKey, h, rotl28_two]
  rfl

/-- An accepting edge (R190). -/
theorem step_of_accepts {s : State} (h : Accepts s) : step s = .next (advancePins (acceptEdge s)) := by
  rw [step_of_not_rst h.2.1, sequencerEdge_rest _ h.1, h.2.2]
  rfl

/-- The first of the listed inputs is what the ports carry next. -/
theorem nextPins_of_cons {s : State} {p : Pins} {ps : List Pins} (h : s.inputs = p :: ps) : nextPins s = p := by
  simp [nextPins, h]

/-- A property of the next `n + 1` inputs, one input at a time. -/
theorem forall_take_succ {P : Pins → Prop} {n : Nat} {l : List Pins} (hn : n + 1 ≤ l.length)
    (h : ∀ p ∈ l.take (n + 1), P p) :
    ∃ p ps, l = p :: ps ∧ P p ∧ n ≤ ps.length ∧ ∀ q ∈ ps.take n, P q := by
  cases l with
  | nil => simp at hn
  | cons p ps => exact ⟨p, ps, rfl, h p (by simp), by simpa using hn, fun q hq => h q (by simp [hq])⟩

/-- A run of `a + b` steps is a run of `a` and then one of `b`. -/
theorem run_add (a b : Nat) {s t : State} (h : core.run a s = .next t) : core.run (a + b) s = core.run b t := by
  induction a generalizing s with
  | zero =>
    cases h
    simp
  | succ a ih =>
    obtain ⟨u, hu⟩ := step_next s
    rw [run_succ a hu] at h
    rw [show a + 1 + b = (a + b) + 1 by omega, run_succ _ hu]
    exact ih h

/-- What every step keeps, every run keeps, and no run stops. -/
theorem run_keeps {P : State → Prop} (hstep : ∀ s t, P s → step s = .next t → P t) (n : Nat) :
    ∀ s, P s → ∃ t, core.run n s = .next t ∧ P t := by
  induction n with
  | zero => exact fun s h => ⟨s, rfl, h⟩
  | succ n ih =>
    intro s h
    obtain ⟨t, ht⟩ := step_next s
    rw [run_succ n ht]
    exact ih t (hstep s t h ht)

end Sys2Proof.Machine
end

