-- ==== Sys2Proof/Laws/HostProgram.lean ====
section
/-! SUPPORT. What one cycle of a host program does to the engine, and that the statements still to run are read from the
list alone. -/

namespace Sys2Proof.Machine

/-- Settling writes the program field from its list argument alone. -/
theorem settleStmts_program (p : List HostStmt) :
    ∀ (h : HostRun) (x : List HostStmt), settleStmts { h with program := x } p = settleStmts h p := by
  induction p with
  | nil => exact fun h x => rfl
  | cons a p ih =>
    intro h x
    cases a with
    | reset => rfl
    | start b k => rfl
    | startHold n =>
      cases n with
      | zero => exact ih h x
      | succ n => rfl
    | nop n =>
      cases n with
      | zero => exact ih h x
      | succ n => rfl
    | waitDone =>
      simp only [settleStmts]
      split <;> simp [ih]
    | read => exact ih { h with reads := h.reads ++ [result h.engine] } x
    | set b k => exact ih { h with blockIn := b, keyIn := k } x

/-- A cycle that drives the ports is one step of the engine with those values on them. -/
theorem driveCycle_next (rst start : Bool) (p : List HostStmt) (h : HostRun) :
    ∃ t, step { h.engine with pins := ⟨rst, start, h.blockIn, h.keyIn⟩ } = .next t ∧
      driveCycle rst start p h = .next { h with engine := t, program := p } := by
  obtain ⟨t, ht⟩ := step_next { h.engine with pins := ⟨rst, start, h.blockIn, h.keyIn⟩ }
  exact ⟨t, ht, by simp [driveCycle, ht]⟩

end Sys2Proof.Machine
end

