-- ==== Sys2Proof/Laws/PerInstr.lean ====
section
/-! SUPPORT. Families of statements about every instruction, one lemma per constructor. -/

namespace Sys2Proof.Laws

/-- The encoding of a well-formed instruction fits its format: 2 bits for a host command, 5 for a state code (R67). -/
def EncodesInItsFormat.Statement (i : Instr) : Prop :=
  WellFormed i = true → (encode i).bits < 2 ^ formatWidth (encode i).format

theorem EncodesInItsFormat.nop : EncodesInItsFormat.Statement .nop := by
  intro _
  decide

theorem EncodesInItsFormat.start : EncodesInItsFormat.Statement .start := by
  intro _
  decide

theorem EncodesInItsFormat.reset (startBit : BitVec 1) : EncodesInItsFormat.Statement (.reset startBit) := by
  intro _
  have h := startBit.isLt
  simp only [encode, formatWidth]
  omega

theorem EncodesInItsFormat.idle : EncodesInItsFormat.Statement .idle := by
  intro _
  decide

theorem EncodesInItsFormat.ip : EncodesInItsFormat.Statement .ip := by
  intro _
  decide

theorem EncodesInItsFormat.round1 : EncodesInItsFormat.Statement .round1 := by
  intro _
  decide

theorem EncodesInItsFormat.round2 : EncodesInItsFormat.Statement .round2 := by
  intro _
  decide

theorem EncodesInItsFormat.round3 : EncodesInItsFormat.Statement .round3 := by
  intro _
  decide

theorem EncodesInItsFormat.round4 : EncodesInItsFormat.Statement .round4 := by
  intro _
  decide

theorem EncodesInItsFormat.round5 : EncodesInItsFormat.Statement .round5 := by
  intro _
  decide

theorem EncodesInItsFormat.round6 : EncodesInItsFormat.Statement .round6 := by
  intro _
  decide

theorem EncodesInItsFormat.round7 : EncodesInItsFormat.Statement .round7 := by
  intro _
  decide

theorem EncodesInItsFormat.round8 : EncodesInItsFormat.Statement .round8 := by
  intro _
  decide

theorem EncodesInItsFormat.round9 : EncodesInItsFormat.Statement .round9 := by
  intro _
  decide

theorem EncodesInItsFormat.round10 : EncodesInItsFormat.Statement .round10 := by
  intro _
  decide

theorem EncodesInItsFormat.round11 : EncodesInItsFormat.Statement .round11 := by
  intro _
  decide

theorem EncodesInItsFormat.round12 : EncodesInItsFormat.Statement .round12 := by
  intro _
  decide

theorem EncodesInItsFormat.round13 : EncodesInItsFormat.Statement .round13 := by
  intro _
  decide

theorem EncodesInItsFormat.round14 : EncodesInItsFormat.Statement .round14 := by
  intro _
  decide

theorem EncodesInItsFormat.round15 : EncodesInItsFormat.Statement .round15 := by
  intro _
  decide

theorem EncodesInItsFormat.round16 : EncodesInItsFormat.Statement .round16 := by
  intro _
  decide

theorem EncodesInItsFormat.swap : EncodesInItsFormat.Statement .swap := by
  intro _
  decide

theorem EncodesInItsFormat.fp : EncodesInItsFormat.Statement .fp := by
  intro _
  decide

theorem EncodesInItsFormat.done : EncodesInItsFormat.Statement .done := by
  intro _
  decide

theorem EncodesInItsFormat.reserved21 (code : StateCode) : EncodesInItsFormat.Statement (.reserved21 code) := by
  exact fun _ => code.isLt

theorem EncodesInItsFormat.reserved22 (code : StateCode) : EncodesInItsFormat.Statement (.reserved22 code) := by
  exact fun _ => code.isLt

theorem EncodesInItsFormat.reserved24 (code : StateCode) : EncodesInItsFormat.Statement (.reserved24 code) := by
  exact fun _ => code.isLt

end Sys2Proof.Laws
end

