-- ==== Sys2Proof/Tests/Slice0.lean ====
section
/-! SUPPORT. The model's own tests and the witnesses of the statements' hypotheses. Every expected value is the spec's:
the encodings of 30_encoding.md and opcode_table.json, the examples and corner cases of the rules, and the vectors of
95_test_vectors.md, as each section says. -/

namespace Sys2Proof.Tests

open Sys2Proof.Machine

/-! ## WellFormed: for each check a term it refuses -/

theorem test_reserved21_refuses_code_22 : WellFormed (.reserved21 22) = false := by decide

theorem test_reserved22_refuses_codes_21_and_24 :
    WellFormed (.reserved22 21) = false ∧ WellFormed (.reserved22 24) = false := by decide

theorem test_reserved24_refuses_code_23 : WellFormed (.reserved24 23) = false := by decide

theorem test_the_table_range_of_each_reserved_row_is_well_formed :
    WellFormed (.reserved21 21) = true ∧ WellFormed (.reserved22 22) = true ∧ WellFormed (.reserved22 23) = true ∧
    WellFormed (.reserved24 24) = true ∧ WellFormed (.reserved24 31) = true := by decide

/-! ## Decoding: the words of R61 and R63, every constructor -/

theorem test_decode_host_commands :
    decode .hostCtrl 0b00 = .instr .nop ∧ decode .hostCtrl 0b01 = .instr .start ∧
    decode .hostCtrl 0b10 = .instr (.reset 0) ∧ decode .hostCtrl 0b11 = .instr (.reset 1) := by decide

theorem test_decode_idle_ip_swap_fp_done :
    decode .fsmState 0b00000 = .instr .idle ∧ decode .fsmState 0b00001 = .instr .ip ∧
    decode .fsmState 0b10010 = .instr .swap ∧ decode .fsmState 0b10011 = .instr .fp ∧
    decode .fsmState 0b10100 = .instr .done := by decide

theorem test_decode_rounds :
    decode .fsmState 0b00010 = .instr .round1 ∧
    decode .fsmState 0b00011 = .instr .round2 ∧
    decode .fsmState 0b00100 = .instr .round3 ∧
    decode .fsmState 0b00101 = .instr .round4 ∧
    decode .fsmState 0b00110 = .instr .round5 ∧
    decode .fsmState 0b00111 = .instr .round6 ∧
    decode .fsmState 0b01000 = .instr .round7 ∧
    decode .fsmState 0b01001 = .instr .round8 ∧
    decode .fsmState 0b01010 = .instr .round9 ∧
    decode .fsmState 0b01011 = .instr .round10 ∧
    decode .fsmState 0b01100 = .instr .round11 ∧
    decode .fsmState 0b01101 = .instr .round12 ∧
    decode .fsmState 0b01110 = .instr .round13 ∧
    decode .fsmState 0b01111 = .instr .round14 ∧
    decode .fsmState 0b10000 = .instr .round15 ∧
    decode .fsmState 0b10001 = .instr .round16 := by decide

theorem test_decode_reserved :
    decode .fsmState 0b10101 = .instr (.reserved21 21) ∧ decode .fsmState 0b10110 = .instr (.reserved22 22) ∧
    decode .fsmState 0b10111 = .instr (.reserved22 23) ∧ decode .fsmState 0b11000 = .instr (.reserved24 24) ∧
    decode .fsmState 0b11111 = .instr (.reserved24 31) := by decide

theorem test_decode_rejects_wider_numbers :
    decode .hostCtrl 4 = .rejected (.ctrlWordTooWide 4) ∧ decode .fsmState 32 = .rejected (.stateCodeTooWide 32) := by
  decide

theorem test_encode_writes_the_tables_words :
    encode .nop = ⟨.hostCtrl, 0b00⟩ ∧ encode (.reset 1) = ⟨.hostCtrl, 0b11⟩ ∧ encode .round9 = ⟨.fsmState, 0b01010⟩ ∧
    encode .done = ⟨.fsmState, 0b10100⟩ ∧ encode (.reserved24 25) = ⟨.fsmState, 0b11001⟩ := by decide

theorem test_table_words :
    decodeTableWord 2 0b01 = some .start ∧ decodeTableWord 5 0b01010 = some .round9 ∧
    decodeTableWord 8 0b10010 = some .swap ∧ decodeTableWord 8 0b11001 = some (.reserved24 25) ∧
    decodeTableWord 8 32 = none := by decide

/-! ## Small states -/

/-- The reset state with a state code and the four halves. -/
def engine (code : StateCode) (l r : HalfBlock) (c d : KeyHalf) : State :=
  { State.reset with STATE := code, L := l, R := r, C := c, D := d }

/-- The known-vector test's block and key on the ports (95_test_vectors.md 2.2). -/
def knownPins : Pins :=
  { rst := false, start := true, blockIn := 0x0123456789ABCDEF, keyIn := 0x133457799BBCDFF1 }

/-- The reset state with `start = 1`, the known-vector test on the ports and `n` further cycles of the same listed. -/
def accepting (n : Nat) : State :=
  { State.reset with pins := knownPins, inputs := List.replicate n knownPins }

/-- The registers after one instruction. -/
def after (i : Instr) (s : State) : State :=
  match exec i s with
  | .next t => t
  | .fault _ => s
  | .refused _ => s

/-- The registers after one step. -/
def stepped (s : State) : State :=
  match step s with
  | .next t => t
  | .fault _ => s
  | .refused _ => s

/-! ## The micro-ops, one edge each (95_test_vectors.md 3.7 and 2.2) -/

theorem test_accept_in_idle :
    after .idle (accepting 0) =
      { accepting 0 with STATE := 1, BLK := 0x0123456789ABCDEF, KEY := 0x133457799BBCDFF1 } := by decide

theorem test_accept_in_done_keeps_result :
    let s := { accepting 1 with STATE := 20, RES := 0x17668DFC7292532D }
    (stepped s).STATE = 1 ∧ (stepped s).RES = 0x17668DFC7292532D ∧ status (stepped s) = 0b01 := by decide

theorem test_hold_in_idle : after .idle State.reset = State.reset := by decide

theorem test_hold_in_done :
    let s := { State.reset with STATE := 20, RES := 0x85E813540F0AB405 }
    after .done s = s ∧ status s = 0b10 := by decide

theorem test_ip_known_vector :
    after .ip { State.reset with STATE := 1, BLK := 0x0123456789ABCDEF, KEY := 0x133457799BBCDFF1 } =
      { engine 2 0xCC00CCFF 0xF0AAF0AA 0xF0CCAAF 0x556678F with
        BLK := 0x0123456789ABCDEF, KEY := 0x133457799BBCDFF1 } := by decide +kernel

theorem test_round1_known_vector :
    after .round1 (engine 2 0xCC00CCFF 0xF0AAF0AA 0xF0CCAAF 0x556678F) =
      engine 3 0xF0AAF0AA 0xEF4A6544 0xE19955F 0xAACCF1E := by decide +kernel

theorem test_round2_known_vector :
    after .round2 (engine 3 0xF0AAF0AA 0xEF4A6544 0xE19955F 0xAACCF1E) =
      engine 4 0xEF4A6544 0xCC017709 0xC332ABF 0x5599E3D := by decide +kernel

theorem test_round3_known_vector :
    after .round3 (engine 4 0xEF4A6544 0xCC017709 0xC332ABF 0x5599E3D) =
      engine 5 0xCC017709 0xA25C0BF4 0x0CCAAFF 0x56678F5 := by decide +kernel

theorem test_round4_known_vector :
    after .round4 (engine 5 0xCC017709 0xA25C0BF4 0x0CCAAFF 0x56678F5) =
      engine 6 0xA25C0BF4 0x77220045 0x332ABFC 0x599E3D5 := by decide +kernel

theorem test_round5_known_vector :
    after .round5 (engine 6 0xA25C0BF4 0x77220045 0x332ABFC 0x599E3D5) =
      engine 7 0x77220045 0x8A4FA637 0xCCAAFF0 0x6678F55 := by decide +kernel

theorem test_round6_known_vector :
    after .round6 (engine 7 0x77220045 0x8A4FA637 0xCCAAFF0 0x6678F55) =
      engine 8 0x8A4FA637 0xE967CD69 0x32ABFC3 0x99E3D55 := by decide +kernel

theorem test_round7_known_vector :
    after .round7 (engine 8 0x8A4FA637 0xE967CD69 0x32ABFC3 0x99E3D55) =
      engine 9 0xE967CD69 0x064ABA10 0xCAAFF0C 0x678F556 := by decide +kernel

theorem test_round8_known_vector :
    after .round8 (engine 9 0xE967CD69 0x064ABA10 0xCAAFF0C 0x678F556) =
      engine 10 0x064ABA10 0xD5694B90 0x2ABFC33 0x9E3D559 := by decide +kernel

theorem test_round9_known_vector :
    after .round9 (engine 10 0x064ABA10 0xD5694B90 0x2ABFC33 0x9E3D559) =
      engine 11 0xD5694B90 0x247CC67A 0x557F866 0x3C7AAB3 := by decide +kernel

theorem test_round10_known_vector :
    after .round10 (engine 11 0xD5694B90 0x247CC67A 0x557F866 0x3C7AAB3) =
      engine 12 0x247CC67A 0xB7D5D7B2 0x55FE199 0xF1EAACC := by decide +kernel

theorem test_round11_known_vector :
    after .round11 (engine 12 0x247CC67A 0xB7D5D7B2 0x55FE199 0xF1EAACC) =
      engine 13 0xB7D5D7B2 0xC5783C78 0x57F8665 0xC7AAB33 := by decide +kernel

theorem test_round12_known_vector :
    after .round12 (engine 13 0xB7D5D7B2 0xC5783C78 0x57F8665 0xC7AAB33) =
      engine 14 0xC5783C78 0x75BD1858 0x5FE1995 0x1EAACCF := by decide +kernel

theorem test_round13_known_vector :
    after .round13 (engine 14 0xC5783C78 0x75BD1858 0x5FE1995 0x1EAACCF) =
      engine 15 0x75BD1858 0x18C3155A 0x7F86655 0x7AAB33C := by decide +kernel

theorem test_round14_known_vector :
    after .round14 (engine 15 0x75BD1858 0x18C3155A 0x7F86655 0x7AAB33C) =
      engine 16 0x18C3155A 0xC28C960D 0xFE19955 0xEAACCF1 := by decide +kernel

theorem test_round15_known_vector :
    after .round15 (engine 16 0x18C3155A 0xC28C960D 0xFE19955 0xEAACCF1) =
      engine 17 0xC28C960D 0x43423234 0xF866557 0xAAB33C7 := by decide +kernel

theorem test_round16_known_vector :
    after .round16 (engine 17 0xC28C960D 0x43423234 0xF866557 0xAAB33C7) =
      engine 18 0x43423234 0x0A4CD995 0xF0CCAAF 0x556678F := by decide +kernel

theorem test_swap_known_vector :
    after .swap (engine 18 0x43423234 0x0A4CD995 0 0) = engine 19 0x0A4CD995 0x43423234 0 0 := by decide

theorem test_fp_known_vector :
    let t := after .fp (engine 19 0x0A4CD995 0x43423234 0 0)
    t.RES = 0x85E813540F0AB405 ∧ t.STATE = 20 ∧ status t = 0b10 := by decide +kernel

theorem test_reserved_code_25_takes_no_start :
    stepped { accepting 1 with STATE := 25 } =
      { accepting 0 with pins := knownPins, cycle := 1 } := by decide

theorem test_reserved_rows :
    (after (.reserved21 21) (engine 21 1 2 3 4)) = engine 0 1 2 3 4 ∧
    (after (.reserved22 23) (engine 23 1 2 3 4)) = engine 0 1 2 3 4 ∧
    (after (.reserved24 31) (engine 31 1 2 3 4)) = engine 0 1 2 3 4 := by decide

/-! ## The host commands (95_test_vectors.md 3.7 and 3.9, R401) -/

theorem test_start_while_busy_is_ignored :
    let s := { accepting 1 with STATE := 18 }
    (stepped s).STATE = 19 ∧ (stepped s).BLK = 0 ∧ (stepped s).KEY = 0 := by decide

theorem test_nop_in_swap_exchanges :
    after .nop (engine 18 0x43423234 0x0A4CD995 0 0) = engine 19 0x0A4CD995 0x43423234 0 0 := by decide

theorem test_nop_in_idle_holds_under_start : after .nop (accepting 0) = accepting 0 := by decide

theorem test_reset_takes_priority_over_start :
    let p : Pins := { rst := true, start := true, blockIn := 5, keyIn := 5 }
    stepped { engine 31 1 2 3 4 with BLK := 6, KEY := 7, RES := 8, pins := p, inputs := [knownPins] } =
      { State.reset with pins := knownPins, cycle := 1 } := by decide

theorem test_ctrl_is_rst_then_start :
    ctrl { State.reset with pins := { knownPins with rst := true, start := false } } = 0b10 := by decide

theorem test_placed_words_run_next :
    (stepped (State.reset.withFetchWord 8 18)).STATE = 19 ∧
    (stepped (State.reset.withFetchWord 2 1)).STATE = 1 := by decide

theorem test_status_at_the_boundaries_of_the_codes :
    ([0, 1, 19, 20, 21, 31] : List StateCode).map (fun c => status (engine c 1 2 3 4)) =
      [0b00, 0b01, 0b01, 0b10, 0b00, 0b00] := by decide

/-! ## The datapath (95_test_vectors.md 2.2 and 3.1 to 3.5) -/

theorem test_ipperm :
    ipperm 0x8000000000000000 = 0x0000000001000000 ∧ ipperm 0x0000000000000001 = 0x0000008000000000 ∧
    ipperm 0xAAAAAAAAAAAAAAAA = 0x00000000FFFFFFFF ∧ ipperm 0x0123456789ABCDEF = 0xCC00CCFFF0AAF0AA := by
  decide +kernel

theorem test_fpperm :
    fpperm 0xAAAAAAAAAAAAAAAA = 0x00FF00FF00FF00FF ∧ fpperm 0x8000000000000001 = 0x0200000000000040 ∧
    fpperm 0x0A4CD99543423234 = 0x85E813540F0AB405 := by decide +kernel

theorem test_perm_P :
    perm tableP 0x80000000 = 0x00800000 ∧ perm tableP 0x00000001 = 0x00000800 ∧
    perm tableP 0x40000000 = 0x00008000 ∧ perm tableP 0x00010000 = 0x80000000 := by decide +kernel

theorem test_perm_PC1_and_PC2_drop_bits :
    perm tablePC1 0xFFFFFFFFFFFFFFFF = 0xFFFFFFFFFFFFFF ∧ perm tablePC1 0x0101010101010101 = 0 ∧
    perm tablePC2 0x00804480242004 = 0 := by decide +kernel

theorem test_xor :
    bitwiseXor 0x7A15557A1555#48 0x1B02EFFC7072#48 = 0x6117BA866527#48 ∧
    bitwiseXor 0xCC00CCFF#32 0x234AA9BB#32 = 0xEF4A6544#32 := by decide

theorem test_sbox_rom_corner_addresses :
    ([0b000000, 0b111111, 0b100001, 0b011110, 0b000001, 0b100000] : List Sextet).map
      (fun b => (List.finRange 8).map fun j => (sboxROM j (romAddress b)).toNat) =
    [[14, 15, 10, 7, 2, 12, 4, 13],
     [13, 9, 12, 14, 3, 13, 12, 11],
     [15, 13, 1, 3, 11, 4, 6, 2],
     [7, 10, 8, 15, 9, 11, 1, 7],
     [0, 3, 13, 13, 14, 10, 13, 1],
     [4, 0, 13, 10, 4, 9, 1, 7]] := by
  decide +kernel

theorem test_sbox_bank :
    sbox 0x000000000000 = 0xEFA72C4D ∧ sbox 0xFFFFFFFFFFFF = 0xD9CE3DCB ∧ sbox 0x6117BA866527 = 0x5C82B597 := by
  decide +kernel

theorem test_expand :
    expand 0x80000000 = 0x400000000001 ∧ expand 0x00000001 = 0x800000000002 ∧ expand 0xAAAAAAAA = 0x555555555555 ∧
    expand 0x0F0F0F0F = 0x85E85E85E85E ∧ expand 0xF0AAF0AA = 0x7A15557A1555 := by decide +kernel

theorem test_f :
    feistelF 0x00000000 0x000000000000 = 0xD8D8DBBC ∧ feistelF 0xFFFFFFFF 0x000000000000 = 0x38DBF9CB ∧
    feistelF 0x00000000 0xFFFFFFFFFFFF = 0x38DBF9CB ∧ feistelF 0xF0AAF0AA 0x000000000000 = 0x275BC23A ∧
    feistelF 0xF0AAF0AA 0x1B02EFFC7072 = 0x234AA9BB := by decide +kernel

theorem test_rotl28 :
    rotl28 0x8000000 1 = 0x0000001 ∧ rotl28 0x8000000 2 = 0x0000002 ∧ rotl28 0xC000000 2 = 0x0000003 ∧
    rotl28 0xFFFFFFE 1 = 0xFFFFFFD ∧ rotl28 0xF0CCAAF 1 = 0xE19955F := by decide

theorem test_pc1split_and_keysched_constant_halves :
    pc1split 0xE0E0E0E0F1F1F1F1 = (0xFFFFFFF, 0x0000000) ∧
    keysched 0x1F1F1F1F0E0E0E0E = List.replicate 16 0x000000FFFFFF := by decide +kernel

theorem test_keysched_known_vector :
    keysched 0x133457799BBCDFF1 =
      [0x1B02EFFC7072, 0x79AED9DBC9E5, 0x55FC8A42CF99, 0x72ADD6DB351D,
       0x7CEC07EB53A8, 0x63A53E507B2F, 0xEC84B7F618BC, 0xF78A3AC13BFB,
       0xE0DBEBEDE781, 0xB1F347BA464F, 0x215FD3DED386, 0x7571F59467E9,
       0x97C5D1FABA41, 0x5F43B7F2E73A, 0xBF918D3D3F0A, 0xCB3D8B0E17F5] := by decide +kernel

theorem test_port_bytes :
    portByte 0x0123456789ABCDEF 0 = 0x01 ∧ portByte 0x0123456789ABCDEF 7 = 0xEF ∧
    portOfBytes #v[0x01, 0x23, 0x45, 0x67, 0x89, 0xAB, 0xCD, 0xEF] = 0x0123456789ABCDEF := by decide

/-! ## Published known answers (95_test_vectors.md 1.1 and 1.2) -/

theorem test_known_answers_V1_to_V6 :
    ([(0x133457799BBCDFF1, 0x0123456789ABCDEF, 0x85E813540F0AB405),
      (0x0000000000000000, 0x0000000000000000, 0x8CA64DE9C1B123A7),
      (0xFFFFFFFFFFFFFFFF, 0xFFFFFFFFFFFFFFFF, 0x7359B2163E4EDC58),
      (0x3000000000000000, 0x1000000000000001, 0x958E6E627A05557B),
      (0x1111111111111111, 0x1111111111111111, 0xF40379AB9E0EC533),
      (0x0123456789ABCDEF, 0x1111111111111111, 0x17668DFC7292532D)] : List (MasterKey × Block × Block)).all
      (fun v => desEncrypt v.2.1 v.1 == v.2.2) = true := by decide +kernel

theorem test_known_answers_V7_to_V11 :
    ([(0x1111111111111111, 0x0123456789ABCDEF, 0x8A5AE1F81AB8F2DD),
      (0xFEDCBA9876543210, 0x0123456789ABCDEF, 0xED39D950FA74BCC4),
      (0x0123456789ABCDEF, 0x4E6F772069732074, 0x3FA40E8A984D4815),
      (0x0101010101010101, 0x8000000000000000, 0x95F8A5E5DD31D900),
      (0x0E329232EA6D0D73, 0x8787878787878787, 0x0000000000000000)] : List (MasterKey × Block × Block)).all
      (fun v => desEncrypt v.2.1 v.1 == v.2.2) = true := by decide +kernel

/-- Two steps of the iterated test: encryption, and the pipeline with the reversed key list (R185). -/
def iteratedTwice (x : Block) : Block :=
  let y := desCore x (keysched x)
  desCore y (keysched y).reverse

theorem test_last_two_steps_of_the_iterated_test :
    iteratedTwice 0x78F87B6E3DFECF61 = 0x1B1A2DDB4C642438 := by decide +kernel

/-! ## Host programs (R68): one cycle each -/

/-- A host run after one cycle. -/
def afterCycle (h : HostRun) : HostRun :=
  match hostCycle h with
  | .next h' => h'
  | .fault _ => h
  | .refused _ => h

theorem test_host_cycle_of_set_read_and_start :
    let h := hostStart State.reset [.set 1 2, .read, .start 0x0123456789ABCDEF 0x133457799BBCDFF1, .waitDone]
    (afterCycle h).engine.STATE = 1 ∧ (afterCycle h).engine.KEY = 0x133457799BBCDFF1 ∧ (afterCycle h).reads = [0] ∧
    (afterCycle h).program = [.waitDone] := by decide

theorem test_host_waitdone_and_read_in_done_take_no_cycle :
    let h := hostStart { State.reset with STATE := 20, RES := 7 } [.waitDone, .read]
    (settle h).program = [] ∧ (settle h).reads = [7] := by decide

/-! ## Witnesses: states and operands that meet the hypotheses of each statement -/

theorem witness_DecodeOfEncodeIsTheInstruction : WellFormed (.reserved24 25) = true := by decide

theorem witness_EncodeOfDecodeIsTheWord :
    decode .hostCtrl 3 = .instr (.reset 1) ∧ decode .fsmState 31 = .instr (.reserved24 31) := by decide

theorem witness_DecodersAreTotalOnTheirWidths :
    (20 : StateCode).toNat ≤ 20 ∧ 21 ≤ (21 : StateCode).toNat ∧ 31 < 32 ∧ 3 < 4 ∧ 32 ≤ 32 ∧ 4 ≤ 4 := by decide

theorem witness_StepRunsTheDecodedHostCommand :
    decode .hostCtrl (ctrl (accepting 1)).toNat = .instr .start ∧
    decode .hostCtrl (ctrl State.reset).toNat = .instr .nop := by decide

theorem witness_StepRunsTheDecodedMicroOp :
    (accepting 1).pins.rst = false ∧ decode .fsmState (accepting 1).STATE.toNat = .instr .idle := by decide

theorem witness_PlacedTableWordIsRunNext :
    decodeTableWord 2 3 = some (.reset 1) ∧ decodeTableWord 8 31 = some (.reserved24 31) := by decide

theorem witness_StepFunctionIsTheOneOfTheSpec :
    SameRegisters (accepting 0) (accepting 1) ∧ (accepting 0).pins = (accepting 1).pins ∧
    (∃ t, step (accepting 0) = .next t) ∧ ∃ t, step (accepting 1) = .next t :=
  ⟨by decide, by decide, ⟨_, rfl⟩, ⟨_, rfl⟩⟩

theorem witness_NopRunsTheSelectedMicroOp :
    State.reset.STATE = 0 ∧ (engine 18 1 2 3 4).STATE ≠ 0 ∧ (engine 18 1 2 3 4).STATE ≠ 20 := by decide

theorem witness_StartAcceptsOrActsAsNop :
    (engine 20 1 2 3 4).STATE = 20 ∧ (engine 19 1 2 3 4).STATE ≠ 0 ∧ (engine 19 1 2 3 4).STATE ≠ 20 := by decide

theorem witness_IdleAndDoneAcceptOrHold :
    (accepting 0).pins.start = true ∧ State.reset.pins.start = false := by decide

theorem witness_SwapExchangesTheHalves :
    (engine 18 5 5 0 0).STATE = 18 ∧ (engine 18 5 5 0 0).pins.rst = false ∧ (engine 18 5 5 0 0).L = (engine 18 5 5 0 0).R ∧
    (engine 18 0x43423234 0x0A4CD995 0 0).L = 0x43423234 ∧ (engine 18 0x43423234 0x0A4CD995 0 0).R = 0x0A4CD995 := by
  decide

theorem witness_FpWritesTheResult :
    (engine 19 0x0A4CD995 0x43423234 0 0).STATE = 19 ∧ (engine 19 0x0A4CD995 0x43423234 0 0).pins.rst = false ∧
    (engine 19 0x0A4CD995 0x43423234 0 0).L ++ (engine 19 0x0A4CD995 0x43423234 0 0).R = 0x0A4CD99543423234#64 ∧
    (after .fp (engine 19 0x0A4CD995 0x43423234 0 0)).RES ≠ (engine 19 0x0A4CD995 0x43423234 0 0).RES ∧
    exec .fp (engine 19 0x0A4CD995 0x43423234 0 0) = .next (after .fp (engine 19 0x0A4CD995 0x43423234 0 0)) :=
  ⟨by decide, by decide, by decide, by decide +kernel, rfl⟩

theorem witness_ReservedCodesGoToIdle :
    21 ≤ (engine 21 1 2 3 4).STATE.toNat ∧ (engine 21 1 2 3 4).pins.rst = false ∧
    ({ accepting 1 with STATE := 25 } : State).STATE = 25 ∧ (accepting 1).pins.rst = false ∧
    (accepting 1).pins.start = true := by decide

theorem witness_AcceptCapturesThePorts :
    Accepts (accepting 0) ∧ (accepting 0).pins.blockIn = 0x0123456789ABCDEF ∧
    (accepting 0).pins.keyIn = 0x133457799BBCDFF1 ∧
    (let s := { accepting 1 with STATE := 19 }
     s.STATE = 19 ∧ s.pins.rst = false ∧ step s = .next (stepped s) ∧ (stepped s).pins.rst = false ∧
       (stepped s).pins.start = true) :=
  ⟨by decide, by decide, by decide, by decide, by decide, rfl, by decide, by decide⟩

/-- The reset state with two cycles of NOP listed. -/
def quiet : State := { State.reset with inputs := [State.reset.pins, State.reset.pins] }

theorem witness_IdleAndDoneHoldIndefinitely :
    quiet.STATE = 0 ∧ quiet.pins.rst = false ∧ quiet.pins.start = false ∧ QuietFor 2 quiet := by decide

theorem witness_StartWhileBusyLeavesNoTrace :
    (engine 1 1 2 3 4).STATE ≠ 0 ∧ (engine 1 1 2 3 4).STATE ≠ 20 ∧ (engine 1 1 2 3 4).pins.rst = false ∧
    (engine 31 1 2 3 4).STATE ≠ 0 ∧ (engine 31 1 2 3 4).STATE ≠ 20 := by decide

/-- A state in ROUND9 with `rst = 1`, and `n` further cycles of the same listed. -/
def resetting (n : Nat) : State :=
  { State.reset with
    STATE := 10, RES := 9
    pins := { rst := true, start := false, blockIn := 0, keyIn := 0 }
    inputs := List.replicate n { rst := true, start := false, blockIn := 0, keyIn := 0 } }

theorem witness_CaptureRegistersChangeOnlyAtAccept :
    (resetting 0).pins.rst = true ∧ Accepts (accepting 0) ∧ quiet.pins.rst = false ∧ ¬ Accepts quiet := by decide

theorem witness_ResultRegisterIsWrittenOnlyAtFp :
    (resetting 0).pins.rst = true ∧ (engine 19 1 2 3 4).pins.rst = false ∧ (engine 19 1 2 3 4).STATE = 19 ∧
    (engine 20 1 2 3 4).pins.rst = false ∧ (engine 20 1 2 3 4).STATE ≠ 19 := by decide

theorem witness_StatusWordFollowsTheStateCode :
    let s := { State.reset with STATE := 20, RES := 0x8CA64DE9C1B123A7, L := (roundHalves 0 0 16).2,
                                R := (roundHalves 0 0 16).1 }
    status s = 0b10 ∧ s.RES = desEncrypt s.BLK s.KEY ∧ (s.R, s.L) = roundHalves s.BLK s.KEY 16 ∧
      (s.C, s.D) = keyHalves s.KEY 16 :=
  ⟨by decide, by decide +kernel, by decide +kernel, by decide +kernel⟩

theorem witness_ResetEdgeLeavesTheResetValues : (resetting 0).pins.rst = true := by decide

theorem witness_ResetStateIsWhatResetLeaves :
    (resetting 0).pins.rst = true ∧ step (resetting 0) = .next (stepped (resetting 0)) := ⟨by decide, rfl⟩

theorem witness_ResetAbandonsTheOperation :
    1 ≤ (resetting 2).STATE.toNat ∧ (resetting 2).STATE.toNat ≤ 19 ∧ (resetting 2).pins.rst = true ∧
    2 ≤ (resetting 2).inputs.length ∧ ∀ p ∈ (resetting 2).inputs.take 2, p.start = false := by decide

theorem witness_ResetHoldsWhileRstIsHigh :
    (resetting 2).pins.rst = true ∧ 2 ≤ (resetting 2).inputs.length ∧
    ∀ p ∈ (resetting 2).inputs.take 2, p.rst = true := by decide

theorem witness_OnlyLegalCodesAreReached :
    (resetting 0).pins.rst = true ∧ (accepting 0).pins.rst = false ∧ (accepting 0).STATE = 0 ∧
    1 ≤ (engine 19 1 2 3 4).STATE.toNat ∧ (engine 19 1 2 3 4).STATE.toNat ≤ 19 ∧ (engine 20 1 2 3 4).STATE = 20 ∧
    step (engine 20 1 2 3 4) = .next (stepped (engine 20 1 2 3 4)) :=
  ⟨by decide, by decide, by decide, by decide, by decide, by decide, rfl⟩

theorem witness_EveryStepKeepsTheDatapathInAgreement :
    DatapathAgrees (accepting 1) ∧ step (accepting 1) = .next (stepped (accepting 1)) :=
  ⟨⟨fun i _ h => absurd h (by rw [show (accepting 1).STATE.toNat = 0 by decide]; omega), by decide, by decide⟩, rfl⟩

theorem witness_OneOperationComputesDesEncrypt : Accepts (accepting 19) ∧ NoResetFor 19 (accepting 19) := by decide

theorem witness_DoneRisesNineteenEdgesAfterTheAccept :
    let s := { accepting 19 with inputs := (accepting 19).inputs ++ [State.reset.pins] }
    Accepts s ∧ NoResetFor 19 s ∧ 19 + 1 ≤ s.inputs.length ∧
      ∀ p ∈ (s.inputs.drop 19).take 1, p.rst = false ∧ p.start = false := by decide

theorem witness_TheNextAcceptIsTwentyEdgesLater :
    Accepts (accepting 20) ∧ NoResetFor 19 (accepting 20) := by decide

theorem witness_HeldStartFlagsEachResultForOneCycle :
    Accepts (accepting 39) ∧ NoResetFor 39 (accepting 39) ∧ (∀ p ∈ (accepting 39).inputs.take 20, p.start = true) ∧
    (accepting 39).inputs[19]? = some knownPins := by decide

theorem witness_NothingOfAnEarlierOperationSurvives :
    let s' := { accepting 19 with STATE := 20, RES := 5, L := 6 }
    Accepts (accepting 19) ∧ Accepts s' ∧ NoResetFor 19 (accepting 19) ∧ NoResetFor 19 s' ∧
    (accepting 19).pins.blockIn = s'.pins.blockIn ∧ (accepting 19).pins.keyIn = s'.pins.keyIn := by decide

theorem witness_EncryptTransactionReadsTheCiphertext :
    let h := hostStart State.reset (encryptStmts 1 2)
    h.engine.STATE = 0 ∧ h.program = encryptStmts 1 2 := by decide

theorem witness_StartAndNineteenNopsEncrypt :
    let h := hostStart { State.reset with STATE := 20 } [.start 1 2, .nop 19]
    h.engine.STATE = 20 ∧ h.program = [.start 1 2, .nop 19] := by decide

theorem witness_HostStatementsDriveTheirCycles :
    done (hostStart State.reset []).engine = false ∧
    done (hostStart { State.reset with STATE := 20 } []).engine = true := by decide

theorem witness_SBoxBankLooksUpEachSextet :
    let x : ExpandedHalf := 0x6117BA866527
    (3 : Fin 4).val = 2 * (desBit x (6 * (4 : Fin 8).val + 1)).toNat + (desBit x (6 * (4 : Fin 8).val + 6)).toNat ∧
    (0 : Fin 16).val = 8 * (desBit x (6 * (4 : Fin 8).val + 2)).toNat + 4 * (desBit x (6 * (4 : Fin 8).val + 3)).toNat +
      2 * (desBit x (6 * (4 : Fin 8).val + 4)).toNat + (desBit x (6 * (4 : Fin 8).val + 5)).toNat := by decide

theorem witness_EachRoundConsumesItsRoundKey :
    let s := engine 2 0xCC00CCFF 0xF0AAF0AA 0x0000000 0x0000000
    s.STATE.toNat = 1 + 1 ∧ s.pins.rst = false ∧ (s.C, s.D) = keyHalves s.KEY (1 - 1) ∧
      exec .ip State.reset = .next (after .ip State.reset) :=
  ⟨by decide, by decide, by decide +kernel, rfl⟩

theorem witness_ParityBitsAreIgnored :
    ∀ n : Fin 65, 1 ≤ n.val → n.val ≤ 64 → n.val % 8 ≠ 0 →
      desBit 0x133457799BBCDFF1#64 n.val = desBit 0x123556789ABDDEF0#64 n.val := by decide +kernel

theorem witness_DoneFlagsTheCiphertext :
    ∃ t, core.run 20 { State.reset with pins := knownPins, inputs := List.replicate 19 knownPins } = .next t ∧
      done t = true := ⟨_, rfl, by decide⟩

theorem witness_PermMovesTheBitsTheTableNames : 1 ≤ 1 ∧ 1 ≤ 48 ∧ 1 ≤ 48 ∧ 48 ≤ 48 ∧ tableE.entries[48 - 1]? = some 1 := by
  decide

theorem witness_FinalPermutationInvertsTheInitial :
    1 ≤ 64 ∧ 64 ≤ 64 ∧ tableFP.entries[64 - 1]? = some 25 ∧ tableIP.entries[25 - 1]? = some 64 := by decide

theorem witness_ExpansionFlanksEachGroup :
    (0 < 8 ∧ 0 < 6 ∧ desBit (expand 0x00000001) (6 * 0 + 0 + 1) = true) ∧
    (7 < 8 ∧ 5 < 6 ∧ desBit (expand 0x80000000) (6 * 7 + 5 + 1) = true) := by decide +kernel

theorem witness_RotationScheduleReturnsTheKeyHalves : 1 ≤ 16 ∧ 16 ≤ 16 ∧ roundShift 16 = 1 ∧ roundShift 3 = 2 := by decide

theorem witness_KeyScheduleListsTheSixteenRoundKeys :
    1 ≤ 16 ∧ 16 ≤ 16 ∧ (keysched 0x0123456789ABCDEF)[16 - 1]? = some 0xCA3D03B87032 := by decide +kernel

theorem witness_PortBytesAreBigEndian :
    1 ≤ 1 ∧ 1 ≤ 8 ∧ desBit (portByte 0x8000000000000000 0) 1 = true ∧
    1 ≤ 8 ∧ 8 ≤ 8 ∧ desBit (portByte 0x0000000000000001 7) 8 = true := by decide

theorem witness_RoundFunctionIsItsFourSteps :
    expand 0xFFFFFFFF ^^^ 0x000000000000 = expand 0x00000000 ^^^ 0xFFFFFFFFFFFF := by decide

/-- The two clauses of the rotation meet at `28 - n`: the bit there is the last of the input, the next one its first. -/
theorem witness_RotationMovesTheLeadingBits :
    (1 ≤ 27 ∧ desBit (rotl28 0x0000001 1) 27 = true) ∧ (1 ≤ 28 ∧ 28 ≤ 28 ∧ desBit (rotl28 0x8000000 1) 28 = true) ∧
    desBit (rotl28 0x0000001 2) 26 = true ∧ desBit (rotl28 0x8000000 2) 27 = true := by decide

theorem witness_RoundKeySelectsFromBothHalves :
    (1 ≤ 1 ∧ 24 ≤ 24 ∧ 25 ≤ 25 ∧ 48 ≤ 48 ∧ tablePC2.entries[24 - 1]? = some 2 ∧
      tablePC2.entries[25 - 1]? = some 41) ∧
    (pc1split 0xE0E0E0E0F1F1F1F1).1 = 0xFFFFFFF ∧ (pc1split 0xE0E0E0E0F1F1F1F1).2 = 0x0000000 := by decide +kernel

end Sys2Proof.Tests
end

section
/-! PROOFS. What one edge changes and leaves, the invariant of the datapath, and one operation from its accepting edge to
DONE. The statements of family 10_state are settled from these. -/

namespace Sys2Proof.Machine

/-! ## What one edge can do -/

/-- Every step is a reset edge, or the sequencer's edge under the current level of `start` (R200, R400). -/
theorem step_cases {s t : State} (h : step s = .next t) :
    (s.pins.rst = true ∧ t = advancePins (resetEdge s)) ∨
    (s.pins.rst = false ∧ t = advancePins (sequencerEdge s.pins.start s)) := by
  cases hr : s.pins.rst with
  | true => exact .inl ⟨rfl, (Host.Outcome.next.inj ((step_of_rst hr).symm.trans h)).symm⟩
  | false => exact .inr ⟨rfl, (Host.Outcome.next.inj ((step_of_not_rst hr).symm.trans h)).symm⟩

/-- An edge without reset that does not accept is the sequencer's edge with `start = 0` (R195, R198). -/
theorem step_of_not_accepts {s : State} (hr : s.pins.rst = false) (ha : ¬ Accepts s) :
    step s = .next (advancePins (sequencerEdge false s)) := by
  have hedge : sequencerEdge s.pins.start s = sequencerEdge false s := by
    by_cases hrest : s.STATE.toNat = 0 ∨ s.STATE.toNat = 20
    · have hs : s.pins.start = false := by
        by_contra hs
        exact ha ⟨hrest, hr, by simpa using hs⟩
      rw [hs]
    · exact sequencerEdge_start_irrelevant hrest _ _
  rw [step_of_not_rst hr, hedge]

/-- With `start = 0` the block register keeps its value in every state (R28). -/
@[simp] theorem sequencerEdge_false_BLK (s : State) : (sequencerEdge false s).BLK = s.BLK := by
  rcases sequencerEdge_cases false s with ⟨_, h⟩ | ⟨_, h⟩ | ⟨i, _, _, _, h⟩ | ⟨_, h⟩ | ⟨_, h⟩ | ⟨_, h⟩ <;> simp [h]

/-- With `start = 0` the key register keeps its value in every state (R28). -/
@[simp] theorem sequencerEdge_false_KEY (s : State) : (sequencerEdge false s).KEY = s.KEY := by
  rcases sequencerEdge_cases false s with ⟨_, h⟩ | ⟨_, h⟩ | ⟨i, _, _, _, h⟩ | ⟨_, h⟩ | ⟨_, h⟩ | ⟨_, h⟩ <;> simp [h]

/-- With `start = 0` the edge reads no port: other port values pass through it untouched (R28). -/
theorem sequencerEdge_false_withPins (s : State) (p : Pins) :
    sequencerEdge false { s with pins := p } = { sequencerEdge false s with pins := p } := by
  simp only [sequencerEdge]
  split_ifs <;> rfl

/-- Outside FP the result register keeps its value, whatever `start` is (R29). -/
theorem sequencerEdge_RES {s : State} (start : Bool) (h : s.STATE.toNat ≠ 19) :
    (sequencerEdge start s).RES = s.RES := by
  rcases sequencerEdge_cases start s with ⟨_, e⟩ | ⟨_, e⟩ | ⟨i, _, _, _, e⟩ | ⟨_, e⟩ | ⟨h19, _⟩ | ⟨_, e⟩
  · cases start <;> simp [e]
  · simp [e]
  · simp [e]
  · simp [e]
  · exact absurd h19 h
  · simp [e]

/-- In IP, the rounds, SWAP and FP the sequencer goes on to the next code (R191 to R194). -/
theorem sequencerEdge_code_succ {s : State} (start : Bool) (h1 : 1 ≤ s.STATE.toNat) (h19 : s.STATE.toNat ≤ 19) :
    (sequencerEdge start s).STATE.toNat = s.STATE.toNat + 1 := by
  rcases sequencerEdge_cases start s with ⟨h, _⟩ | ⟨h, e⟩ | ⟨i, _, hi, h, e⟩ | ⟨h, e⟩ | ⟨h, e⟩ | ⟨h, _⟩
  · omega
  · simp [e, h]
  · rw [e, h, roundEdge_STATE, BitVec.toNat_ofNat]
    omega
  · simp [e, h]
  · simp [e, h]
  · omega

/-- An edge without reset in the codes 1 to 19 goes on to the next code and keeps the captured block and key. -/
theorem step_of_working {s : State} (hr : s.pins.rst = false) (h1 : 1 ≤ s.STATE.toNat) (h19 : s.STATE.toNat ≤ 19) :
    ∃ t, step s = .next t ∧ t.STATE.toNat = s.STATE.toNat + 1 ∧ t.BLK = s.BLK ∧ t.KEY = s.KEY := by
  have ha : ¬ Accepts s := fun ⟨hrest, _⟩ => by omega
  exact ⟨_, step_of_not_accepts hr ha, sequencerEdge_code_succ false h1 h19, sequencerEdge_false_BLK s,
    sequencerEdge_false_KEY s⟩

/-! ## The values of the operation, one round at a time -/

/-- Round key `i + 1` is PC-2 of the halves that rule R166 numbers `i + 1` (R165, R166). -/
theorem keysched_getElem? (key : MasterKey) {i : Nat} (hi : i < 16) :
    (keysched key)[i]? = some (roundkey (keyHalves key (i + 1)).1 (keyHalves key (i + 1)).2) := by
  have h := keyschedFrom_getElem? key 16 0 i hi
  rwa [Nat.zero_add, Nat.add_comm 1 i] at h

theorem keysched_length (key : MasterKey) : (keysched key).length = 16 :=
  keyschedFrom_length _ _ _

/-- The ciphertext is the final permutation of the sixteenth round's halves, right half first (R180, R183). -/
theorem desEncrypt_eq_fpperm_roundHalves (b : Block) (k : MasterKey) :
    desEncrypt b k = fpperm ((roundHalves b k 16).2 ++ (roundHalves b k 16).1) := by
  rw [roundHalves, List.take_of_length_le (keysched_length k).le]
  rfl

/-- The IP edge loads the halves that stand before round 1 (R161, R181). -/
theorem holdsRound_ipEdge (s : State) : HoldsRound 0 (ipEdge s) := ⟨rfl, rfl⟩

/-- The edge of ROUND `i + 1` takes the values of round `i` to those of round `i + 1` (R167, R182, R192). -/
theorem holdsRound_roundEdge {s : State} {i : Nat} (hi : i < 16) (h : HoldsRound i s) :
    HoldsRound (i + 1) (roundEdge (i + 1) s) := by
  obtain ⟨hLR, hCD⟩ := h
  constructor
  · rw [roundEdge_BLK, roundEdge_KEY, roundHalves_succ _ _ (keysched_getElem? s.KEY hi), keyHalves_succ, ← hLR, ← hCD]
    rfl
  · rw [roundEdge_KEY, keyHalves_succ, ← hCD]
    rfl

/-! ## The datapath invariant (R26, R27, R167, R196) -/

/-- In IDLE and IP the invariant says nothing. -/
theorem datapathAgrees_of_code_le_one {s : State} (h : s.STATE.toNat ≤ 1) : DatapathAgrees s :=
  ⟨fun _ _ _ => by omega, fun _ => by omega, fun _ => by omega⟩

/-- After round `i` the invariant is that the registers hold the values of round `i`. -/
theorem datapathAgrees_of_holdsRound {s : State} {i : Nat} (hi : i ≤ 16) (hcode : s.STATE.toNat = i + 2)
    (h : HoldsRound i s) : DatapathAgrees s := by
  refine ⟨fun j _ hj => ?_, fun _ => by omega, fun _ => by omega⟩
  obtain rfl : j = i := by omega
  exact h

/-- The SWAP edge exchanges the halves of round 16 (R193). -/
theorem datapathAgrees_swapEdge {s : State} (h : HoldsRound 16 s) : DatapathAgrees (swapEdge s) :=
  ⟨fun j _ (hj : 19 = j + 2) => by omega, fun _ => h, fun h20 => by simp at h20⟩

/-- The FP edge writes the ciphertext and leaves the exchanged halves (R194). -/
theorem datapathAgrees_fpEdge {s : State}
    (h : (s.R, s.L) = roundHalves s.BLK s.KEY 16 ∧ (s.C, s.D) = keyHalves s.KEY 16) : DatapathAgrees (fpEdge s) := by
  refine ⟨fun j _ (hj : 20 = j + 2) => by omega, fun _ => h, fun _ => ?_⟩
  rw [fpEdge_BLK, fpEdge_KEY, desEncrypt_eq_fpperm_roundHalves, ← h.1]
  rfl

/-- Every micro-op keeps the invariant. -/
theorem sequencerEdge_keeps_datapathAgrees {s : State} (start : Bool) (h : DatapathAgrees s) :
    DatapathAgrees (sequencerEdge start s) := by
  have ⟨hround, hswapped, _⟩ := h
  rcases sequencerEdge_cases start s with ⟨_, e⟩ | ⟨_, e⟩ | ⟨i, h1, h16, hc, e⟩ | ⟨hc, e⟩ | ⟨hc, e⟩ | ⟨_, e⟩
  · cases start with
    | true => exact e ▸ datapathAgrees_of_code_le_one (by simp)
    | false => exact e ▸ h
  · exact e ▸ datapathAgrees_of_holdsRound (by omega) (by simp) (holdsRound_ipEdge s)
  · obtain ⟨i, rfl⟩ : ∃ j, i = j + 1 := ⟨i - 1, by omega⟩
    have hcode : (roundEdge (i + 1) s).STATE.toNat = i + 1 + 2 := by
      rw [roundEdge_STATE, BitVec.toNat_ofNat]
      omega
    exact e ▸ datapathAgrees_of_holdsRound h16 hcode
      (holdsRound_roundEdge (by omega) (hround i (by omega) (by omega)))
  · exact e ▸ datapathAgrees_swapEdge (hround 16 le_rfl hc)
  · exact e ▸ datapathAgrees_fpEdge (hswapped (.inl hc))
  · exact e ▸ datapathAgrees_of_code_le_one (by simp)

/-- Every step keeps the invariant; the ports' going on touches no register. -/
theorem step_keeps_datapathAgrees {s t : State} (h : DatapathAgrees s) (hst : step s = .next t) :
    DatapathAgrees t := by
  rcases step_cases hst with ⟨_, rfl⟩ | ⟨_, rfl⟩
  · exact datapathAgrees_of_code_le_one (by simp)
  · exact sequencerEdge_keeps_datapathAgrees s.pins.start h

/-- Settles O32: each micro-op takes the values of its code to those of the next one. -/
theorem everyStepKeepsTheDatapathInAgreement : Obligations.EveryStepKeepsTheDatapathInAgreement :=
  fun _ _ => step_keeps_datapathAgrees

/-! ## The registers that capture and result use (R28, R29) -/

/-- Settles O22: a reset edge, an accepting edge and every other edge, one after the other. -/
theorem captureRegistersChangeOnlyAtAccept : Obligations.CaptureRegistersChangeOnlyAtAccept := by
  intro s
  cases hr : s.pins.rst with
  | true =>
    have ha : ¬ Accepts s := fun ⟨_, h, _⟩ => by simp [hr] at h
    exact ⟨_, step_of_rst hr, fun _ => ⟨rfl, rfl⟩, fun h => absurd h ha, fun h => by simp at h,
      fun _ b k => step_of_rst (s := { s with pins := { s.pins with blockIn := b, keyIn := k } }) hr⟩
  | false =>
    by_cases ha : Accepts s
    · exact ⟨_, step_of_accepts ha, fun h => by simp at h, fun _ => ⟨rfl, rfl⟩, fun _ h => absurd ha h,
        fun h => absurd ha h⟩
    · refine ⟨_, step_of_not_accepts hr ha, fun h => by simp at h, fun h => absurd h ha, fun _ _ => by simp,
        fun _ b k => ?_⟩
      rw [step_of_not_accepts (s := { s with pins := { s.pins with blockIn := b, keyIn := k } }) hr ha,
        sequencerEdge_false_withPins]
      rfl

/-- Settles O23: reset clears `RES`, FP writes it, and every other micro-op leaves it. -/
theorem resultRegisterIsWrittenOnlyAtFp : Obligations.ResultRegisterIsWrittenOnlyAtFp := by
  refine fun s => ⟨rfl, ?_⟩
  have h19 : s.STATE = 19 ↔ s.STATE.toNat = 19 := code_eq_iff s.STATE (by decide)
  cases hr : s.pins.rst with
  | true => exact ⟨_, step_of_rst hr, fun _ => rfl, fun h => by simp at h, fun h => by simp at h⟩
  | false =>
    refine ⟨_, step_of_not_rst hr, fun h => by simp at h, fun _ hfp => ?_, fun _ hfp => ?_⟩
    · simp [sequencerEdge_fp s.pins.start (h19.mp hfp)]
    · exact sequencerEdge_RES s.pins.start (mt h19.mpr hfp)

/-! ## The outputs (R22, R23, R62) -/

theorem busy_iff (s : State) : busy s = true ↔ 1 ≤ s.STATE.toNat ∧ s.STATE.toNat ≤ 19 := by
  simp [busy]

theorem done_iff (s : State) : done s = true ↔ s.STATE.toNat = 20 := by
  simp [done]

/-- A status word is read off `done` and `busy`, bit by bit (R62). -/
theorem status_eq_iff (s : State) (d b : Bool) :
    status s = BitVec.ofBool d ++ BitVec.ofBool b ↔ done s = d ∧ busy s = b := by
  have bits : ∀ d' b' d b : Bool,
      BitVec.ofBool d' ++ BitVec.ofBool b' = BitVec.ofBool d ++ BitVec.ofBool b ↔ d' = d ∧ b' = b := by decide
  exact bits _ _ _ _

/-- The status word as a condition on the state code: `done` in code 20, `busy` in the codes 1 to 19 (R22, R23). -/
theorem status_eq_iff_code (s : State) (d b : Bool) :
    status s = BitVec.ofBool d ++ BitVec.ofBool b ↔
      (d = true ↔ s.STATE.toNat = 20) ∧ (b = true ↔ 1 ≤ s.STATE.toNat ∧ s.STATE.toNat ≤ 19) := by
  rw [status_eq_iff, ← done_iff, ← busy_iff, Bool.coe_iff_coe, Bool.coe_iff_coe, eq_comm (a := d), eq_comm (a := b)]

theorem status_getLsbD (s : State) : (status s).getLsbD 1 = done s ∧ (status s).getLsbD 0 = busy s := by
  have bits : ∀ d b : Bool, (BitVec.ofBool d ++ BitVec.ofBool b).getLsbD 1 = d ∧
      (BitVec.ofBool d ++ BitVec.ofBool b).getLsbD 0 = b := by decide
  exact bits _ _

/-- In DONE the invariant makes `result` the ciphertext. -/
theorem result_of_done {s : State} (h : DatapathAgrees s) (hd : done s = true) :
    result s = desEncrypt s.BLK s.KEY := by
  obtain ⟨_, _, hres⟩ := h
  exact hres ((done_iff s).mp hd)

/-- Settles O24: each row of the status table is a pair of levels of `done` and `busy`, and so a range of codes. -/
theorem statusWordFollowsTheStateCode : Obligations.StatusWordFollowsTheStateCode := by
  intro s
  have h0 : s.STATE = 0 ↔ s.STATE.toNat = 0 := code_eq_iff s.STATE (by decide)
  have h20 : s.STATE = 20 ↔ s.STATE.toNat = 20 := code_eq_iff s.STATE (by decide)
  obtain ⟨hbit1, hbit0⟩ := status_getLsbD s
  refine ⟨busy_iff s, hbit1, hbit0, (status_eq_iff_code s false false).trans ?_,
    (status_eq_iff_code s false true).trans ?_, (status_eq_iff_code s true false).trans ?_, fun h hs => ?_, fun hs => ?_⟩
  · simp only [h0, Bool.false_eq_true, false_iff]
    omega
  · simp only [Bool.false_eq_true, false_iff, true_iff]
    omega
  · simp only [h20, Bool.false_eq_true, false_iff, true_iff]
    omega
  · exact result_of_done h ((status_eq_iff s true false).mp hs).1
  · obtain ⟨hdone, hbusy⟩ := (status_eq_iff_code s true true).mp hs
    simp only [true_iff] at hdone hbusy
    omega

/-- Settles O25: the datapath invariant holds at reset and every step keeps it, so it holds wherever `done` is 1. -/
theorem doneFlagsTheCiphertext : Obligations.DoneFlagsTheCiphertext := by
  refine ⟨fun s => (done_iff s).trans (code_eq_iff s.STATE (by decide)).symm, fun n p ins => ?_⟩
  obtain ⟨t, hrun, ht⟩ := run_keeps (fun _ _ => step_keeps_datapathAgrees) n
    { State.reset with pins := p, inputs := ins } (datapathAgrees_of_code_le_one (Nat.zero_le 1))
  exact ⟨t, hrun, result_of_done ht⟩

/-! ## One operation, from its accepting edge on (R196) -/

/-- A run of `n` steps and then one step more. -/
theorem run_step {n : Nat} {s t u : State} (hrun : core.run n s = .next t) (hst : step t = .next u) :
    core.run (n + 1) s = .next u := by
  rw [run_add n 1 hrun, run_succ 0 hst, run_zero]

/-- After `n + 1` steps the ports carry input `n` of the list. -/
theorem run_pins {n : Nat} {s t : State} (hn : n < s.inputs.length) (hrun : core.run (n + 1) s = .next t) :
    s.inputs[n]? = some t.pins := by
  induction n generalizing s with
  | zero =>
    obtain ⟨u, hu⟩ := step_next s
    rw [run_succ 0 hu, run_zero] at hrun
    cases hrun
    obtain ⟨p, ps, hps⟩ := List.exists_cons_of_length_pos hn
    rw [(step_ports hu).1, nextPins_of_cons hps, hps]
    rfl
  | succ n ih =>
    obtain ⟨u, hu⟩ := step_next s
    obtain ⟨_, hin, _⟩ := step_ports hu
    rw [run_succ (n + 1) hu] at hrun
    have h := ih (by rw [hin, List.length_tail]; omega) hrun
    rwa [hin, List.getElem?_tail] at h

/-- While the host holds `rst = 0`, no state on the way has `rst = 1` on its ports. -/
theorem rst_false_of_noResetFor {n k : Nat} {s t : State} (h : NoResetFor n s) (hk : k < n)
    (hrun : core.run (k + 1) s = .next t) : t.pins.rst = false := by
  obtain ⟨hlen, hrst⟩ := h
  refine hrst _ (List.mem_of_getElem? (i := k) ?_)
  rw [List.getElem?_take_of_lt hk]
  exact run_pins (by omega) hrun

/-- `k` edges after the accept the code is `k + 1`, the captured block and key still stand, and the datapath agrees with
the operation on them. -/
theorem operation_progress {s : State} (ha : Accepts s) (hq : NoResetFor 19 s) {k : Nat} (hk : k ≤ 19) :
    ∃ t, core.run (k + 1) s = .next t ∧ t.STATE.toNat = k + 1 ∧ t.BLK = s.pins.blockIn ∧ t.KEY = s.pins.keyIn ∧
      DatapathAgrees t := by
  induction k with
  | zero => exact ⟨_, run_succ 0 (step_of_accepts ha), rfl, rfl, rfl, datapathAgrees_of_code_le_one le_rfl⟩
  | succ k ih =>
    obtain ⟨t, hrun, hcode, hblk, hkey, hagree⟩ := ih (by omega)
    obtain ⟨u, hst, hcode', hblk', hkey'⟩ :=
      step_of_working (rst_false_of_noResetFor hq hk hrun) (by omega) (by omega)
    exact ⟨u, run_step hrun hst, by omega, hblk'.trans hblk, hkey'.trans hkey, step_keeps_datapathAgrees hagree hst⟩

/-- In DONE the captured block and key fix every other register. -/
theorem sameRegisters_of_done {t t' : State} (h : DatapathAgrees t) (h' : DatapathAgrees t')
    (hc : t.STATE.toNat = 20) (hc' : t'.STATE.toNat = 20) (hblk : t.BLK = t'.BLK) (hkey : t.KEY = t'.KEY) :
    SameRegisters t t' := by
  obtain ⟨_, hswap, hres⟩ := h
  obtain ⟨_, hswap', hres'⟩ := h'
  obtain ⟨hRL, hCD⟩ := hswap (.inr hc)
  obtain ⟨hRL', hCD'⟩ := hswap' (.inr hc')
  obtain ⟨hR, hL⟩ : t.R = t'.R ∧ t.L = t'.L := by rw [← Prod.mk.injEq, hRL, hRL', hblk, hkey]
  obtain ⟨hC, hD⟩ : t.C = t'.C ∧ t.D = t'.D := by rw [← Prod.mk.injEq, hCD, hCD', hkey]
  have hRES : t.RES = t'.RES := by rw [hres hc, hres' hc', hblk, hkey]
  exact ⟨BitVec.eq_of_toNat_eq (hc.trans hc'.symm), hblk, hkey, hL, hR, hC, hD, hRES⟩

/-- Settles O38: both runs end in DONE with the datapath in agreement, and there the captured values fix all the rest. -/
theorem nothingOfAnEarlierOperationSurvives : Obligations.NothingOfAnEarlierOperationSurvives := by
  intro s s' ha ha' hq hq' hblock hkeyIn
  obtain ⟨t, hrun, hc, hblk, hkey, hagree⟩ := operation_progress ha hq le_rfl
  obtain ⟨t', hrun', hc', hblk', hkey', hagree'⟩ := operation_progress ha' hq' le_rfl
  exact ⟨t, t', hrun, hrun', sameRegisters_of_done hagree hagree' hc hc' (by rw [hblk, hblk', hblock])
    (by rw [hkey, hkey', hkeyIn])⟩

/-! ## Reset (R34, R35, R400, R401, R404) -/

/-- A reset edge leaves the registers of the reset state, whatever the registers and `start` were. -/
theorem sameRegisters_reset_of_rst {s t : State} (hr : s.pins.rst = true) (hst : step s = .next t) :
    SameRegisters t State.reset := by
  rw [step_of_rst hr] at hst
  cases hst
  exact ⟨rfl, rfl, rfl, rfl, rfl, rfl, rfl, rfl⟩

/-- Settles O26: a reset edge writes each register's value of R34, and both flags are 0 in code 0. -/
theorem resetEdgeLeavesTheResetValues : Obligations.ResetEdgeLeavesTheResetValues :=
  fun _ hr => ⟨_, step_of_rst hr, rfl, rfl, rfl, rfl, rfl, rfl, rfl, rfl, rfl, rfl⟩

/-- Settles O27: the power-up state is one of the states a reset edge may start from. -/
theorem resetStateIsWhatResetLeaves : Obligations.ResetStateIsWhatResetLeaves := by
  refine ⟨fun _ _ => sameRegisters_reset_of_rst, fun p hp => ?_⟩
  obtain ⟨t, ht⟩ := step_next { State.powerUp with pins := p }
  exact ⟨t, ht, sameRegisters_reset_of_rst hp ht⟩

/-- Settles O33: the reset state is in IDLE, a legal code where the datapath invariant says nothing. -/
theorem resetStateMeetsTheInvariants : Obligations.ResetStateMeetsTheInvariants :=
  ⟨Nat.zero_le 20, datapathAgrees_of_code_le_one (Nat.zero_le 1)⟩

end Sys2Proof.Machine
end

section
/-! PROOFS. The byte view of a port value. The statement of family 20_memory is settled from these. -/

namespace Sys2Proof.Machine

/-! ## The bytes of a port value (R43, R60) -/

/-- Counted from 1 at the most significant end, bit `n` of byte `k` stands at bit `8k + n` of the value (R43). -/
theorem desBit_portByte (v : Block) (k : Fin 8) {n : Nat} (h1 : 1 ≤ n) (h8 : n ≤ 8) :
    desBit (portByte v k) n = desBit v (8 * k.val + n) := by
  have hpos : 56 - 8 * k.val + (8 - n) = 64 - (8 * k.val + n) := by omega
  have hin : 8 - n < 8 := by omega
  simp [desBit, portByte, hpos, hin]

/-- Assembling the bytes of a value gives it back: each byte is the slice just below the ones before it, so the appends
join into the slice of all 64 bits. -/
theorem portOfBytes_portByte (v : Block) :
    portOfBytes #v[portByte v 0, portByte v 1, portByte v 2, portByte v 3,
      portByte v 4, portByte v 5, portByte v 6, portByte v 7] = v := by
  change v.extractLsb' 56 8 ++ v.extractLsb' 48 8 ++ v.extractLsb' 40 8 ++ v.extractLsb' 32 8 ++
    v.extractLsb' 24 8 ++ v.extractLsb' 16 8 ++ v.extractLsb' 8 8 ++ v.extractLsb' 0 8 = v
  iterate 7 rw [BitVec.extractLsb'_append_extractLsb'_eq_extractLsb' (by rfl)]
  exact BitVec.extractLsb'_eq_self

/-- Settles O55: each bit of each byte by its position, and the value from its bytes by joining adjacent slices. -/
theorem portBytesAreBigEndian : Obligations.PortBytesAreBigEndian :=
  ⟨fun v k _ => desBit_portByte v k, portOfBytes_portByte⟩

end Sys2Proof.Machine
end

section
/-! PROOFS. Both decoders and the encoder, the host commands, and a word where the next step finds it. With the host
programs below, the statements of family 30_encoding are settled from these. -/

namespace Sys2Proof.Machine

/-! ## The decoders of the two formats (R61, R63, R65) -/

/-- A control word decodes to NOP, START or a RESET (R61). -/
theorem decodeCtrl_cases (w : Ctrl) :
    decodeCtrl w = .nop ∨ decodeCtrl w = .start ∨ ∃ x, decodeCtrl w = .reset x := by
  unfold decodeCtrl
  split_ifs
  · exact .inl rfl
  · exact .inr (.inl rfl)
  · exact .inr (.inr ⟨_, rfl⟩)

/-- Codes 21 to 31 decode to one of the three RESERVED rows (R63). -/
theorem decodeStateCode_reserved : ∀ c : StateCode, 21 ≤ c.toNat →
    decodeStateCode c = .reserved21 c ∨ decodeStateCode c = .reserved22 c ∨ decodeStateCode c = .reserved24 c := by
  decide

/-- Codes 0 to 20 decode to the micro-ops in the order of the state list (R63). -/
theorem decodeStateCode_of_le_20 : ∀ c : StateCode, c.toNat ≤ 20 →
    [Instr.idle, .ip, .round1, .round2, .round3, .round4, .round5, .round6, .round7, .round8, .round9, .round10,
      .round11, .round12, .round13, .round14, .round15, .round16, .swap, .fp, .done][c.toNat]? =
        some (decodeStateCode c) := by
  decide

theorem decode_hostCtrl_of_lt {w : Nat} (h : w < 4) : decode .hostCtrl w = .instr (decodeCtrl (BitVec.ofNat 2 w)) :=
  if_pos h

theorem decode_hostCtrl_of_le {w : Nat} (h : 4 ≤ w) : decode .hostCtrl w = .rejected (.ctrlWordTooWide w) :=
  if_neg h.not_gt

theorem decode_fsmState_of_lt {w : Nat} (h : w < 32) :
    decode .fsmState w = .instr (decodeStateCode (BitVec.ofNat 5 w)) :=
  if_pos h

theorem decode_fsmState_of_le {w : Nat} (h : 32 ≤ w) : decode .fsmState w = .rejected (.stateCodeTooWide w) :=
  if_neg h.not_gt

theorem decode_hostCtrl_toNat (c : Ctrl) : decode .hostCtrl c.toNat = .instr (decodeCtrl c) := by
  rw [decode_hostCtrl_of_lt c.isLt, BitVec.ofNat_toNat, BitVec.setWidth_eq]

theorem decode_fsmState_toNat (c : StateCode) : decode .fsmState c.toNat = .instr (decodeStateCode c) := by
  rw [decode_fsmState_of_lt c.isLt, BitVec.ofNat_toNat, BitVec.setWidth_eq]

/-- A number that decodes as a control word is one. -/
theorem ctrl_of_decode {w : Nat} {i : Instr} (h : decode .hostCtrl w = .instr i) :
    ∃ c : Ctrl, c.toNat = w ∧ decodeCtrl c = i := by
  rcases Nat.lt_or_ge w 4 with hw | hw
  · rw [decode_hostCtrl_of_lt hw] at h
    exact ⟨BitVec.ofNat 2 w, Nat.mod_eq_of_lt hw, Decoded.instr.inj h⟩
  · simp [decode_hostCtrl_of_le hw] at h

/-- A number that decodes as a state code is one. -/
theorem stateCode_of_decode {w : Nat} {i : Instr} (h : decode .fsmState w = .instr i) :
    ∃ c : StateCode, c.toNat = w ∧ decodeStateCode c = i := by
  rcases Nat.lt_or_ge w 32 with hw | hw
  · rw [decode_fsmState_of_lt hw] at h
    exact ⟨BitVec.ofNat 5 w, Nat.mod_eq_of_lt hw, Decoded.instr.inj h⟩
  · simp [decode_fsmState_of_le hw] at h

/-! ## Decoding and encoding undo each other -/

/-- The code a well-formed RESERVED term carries is one of its row's (R63, R66). -/
theorem decodeStateCode_of_wellFormed : ∀ c : StateCode,
    (WellFormed (.reserved21 c) = true → decodeStateCode c = .reserved21 c) ∧
    (WellFormed (.reserved22 c) = true → decodeStateCode c = .reserved22 c) ∧
    (WellFormed (.reserved24 c) = true → decodeStateCode c = .reserved24 c) := by
  decide

theorem decodeWord_encode (i : Instr) (h : WellFormed i = true) : decodeWord (encode i) = .instr i := by
  cases i with
  | reset x =>
    have hreset : ∀ x : BitVec 1, decodeWord (encode (.reset x)) = .instr (.reset x) := by decide
    exact hreset x
  | reserved21 c =>
    obtain ⟨h21, _, _⟩ := decodeStateCode_of_wellFormed c
    exact (decode_fsmState_toNat c).trans (congrArg _ (h21 h))
  | reserved22 c =>
    obtain ⟨_, h22, _⟩ := decodeStateCode_of_wellFormed c
    exact (decode_fsmState_toNat c).trans (congrArg _ (h22 h))
  | reserved24 c =>
    obtain ⟨_, _, h24⟩ := decodeStateCode_of_wellFormed c
    exact (decode_fsmState_toNat c).trans (congrArg _ (h24 h))
  | _ => rfl

theorem encode_decodeCtrl : ∀ c : Ctrl,
    WellFormed (decodeCtrl c) = true ∧ encode (decodeCtrl c) = ⟨.hostCtrl, c.toNat⟩ := by
  decide

theorem encode_decodeStateCode : ∀ c : StateCode,
    WellFormed (decodeStateCode c) = true ∧ encode (decodeStateCode c) = ⟨.fsmState, c.toNat⟩ := by
  decide

/-- Settles O1: each row decodes its own word, and a RESERVED term's code lies in its row. -/
theorem decodeOfEncodeIsTheInstruction : Obligations.DecodeOfEncodeIsTheInstruction := decodeWord_encode

/-- Settles O2: a number that decodes is one of the format's bit vectors, and each of those encodes back. -/
theorem encodeOfDecodeIsTheWord : Obligations.EncodeOfDecodeIsTheWord := by
  intro f w i h
  cases f with
  | hostCtrl =>
    obtain ⟨c, rfl, rfl⟩ := ctrl_of_decode h
    exact encode_decodeCtrl c
  | fsmState =>
    obtain ⟨c, rfl, rfl⟩ := stateCode_of_decode h
    exact encode_decodeStateCode c

/-- The micro-op of every reserved code goes to IDLE and leaves the rest (R197). -/
theorem exec_decodeStateCode_of_reserved {c : StateCode} (hc : 21 ≤ c.toNat) (s : State) :
    exec (decodeStateCode c) s = .next (reservedEdge s) := by
  rcases decodeStateCode_reserved c hc with h | h | h <;> rw [h] <;> rfl

/-- Settles O3: the codes up to 20, the reserved codes, the control words, and each decoder inside and outside its
width. -/
theorem decodersAreTotalOnTheirWidths : Obligations.DecodersAreTotalOnTheirWidths :=
  ⟨decodeStateCode_of_le_20, fun _ hc s => exec_decodeStateCode_of_reserved hc s, decodeCtrl_cases,
    fun _ => decode_fsmState_of_lt, fun _ => decode_hostCtrl_of_lt, fun _ => decode_fsmState_of_le,
    fun _ => decode_hostCtrl_of_le⟩

/-- Settles O4: each of the words is the encoding of its row. -/
theorem specWordsDecodeToTheirRows : Obligations.SpecWordsDecodeToTheirRows :=
  ⟨decodeWord_encode .nop rfl, decodeWord_encode .start rfl, decodeWord_encode (.reset 0) rfl,
    decodeWord_encode (.reset 1) rfl, decodeWord_encode .idle rfl, decodeWord_encode .ip rfl,
    decodeWord_encode .round1 rfl, decodeWord_encode .round16 rfl, decodeWord_encode .swap rfl,
    decodeWord_encode .fp rfl, decodeWord_encode .done rfl, decodeWord_encode (.reserved21 21) rfl,
    decodeWord_encode (.reserved22 23) rfl, decodeWord_encode (.reserved24 25) rfl⟩

/-! ## The host commands (R61) -/

theorem exec_nop (s : State) : exec .nop s = .next (sequencerEdge false s) := rfl

theorem exec_start (s : State) : exec .start s = .next (sequencerEdge true s) := execStart_eq s

theorem exec_reset (x : BitVec 1) (s : State) : exec (.reset x) s = .next (resetEdge s) := rfl

/-- IDLE and DONE by the code's numeral and by its number. -/
theorem idle_or_done_iff (s : State) : s.STATE = 0 ∨ s.STATE = 20 ↔ s.STATE.toNat = 0 ∨ s.STATE.toNat = 20 :=
  or_congr (code_eq_iff s.STATE (by decide)) (code_eq_iff s.STATE (by decide))

theorem not_idle_or_done {s : State} (h0 : s.STATE ≠ 0) (h20 : s.STATE ≠ 20) :
    ¬(s.STATE.toNat = 0 ∨ s.STATE.toNat = 20) := by
  rw [← idle_or_done_iff]
  exact not_or_intro h0 h20

/-- Settles O10: NOP is the sequencer's edge with `start = 0`. -/
theorem nopRunsTheSelectedMicroOp : Obligations.NopRunsTheSelectedMicroOp := by
  refine ⟨fun s h => ?_, fun s h0 h20 => ?_, fun s => ?_⟩
  · rw [exec_nop, sequencerEdge_rest false ((idle_or_done_iff s).mp h), idleEdge_false]
  · rw [exec_nop, exec_decodeStateCode, sequencerEdge_start_irrelevant (not_idle_or_done h0 h20)]
  · exact ⟨_, exec_nop s, sequencerEdge_false_BLK s, sequencerEdge_false_KEY s, sequencerEdge_pins false s⟩

/-- Settles O11: START is the sequencer's edge with `start = 1`, a level that matters in IDLE and DONE only. -/
theorem startAcceptsOrActsAsNop : Obligations.StartAcceptsOrActsAsNop := by
  refine ⟨fun s h => ?_, fun s h0 h20 => ?_, fun s => ⟨_, exec_start s⟩⟩
  · rw [exec_start, sequencerEdge_rest true ((idle_or_done_iff s).mp h)]
    rfl
  · rw [exec_start, exec_nop, sequencerEdge_start_irrelevant (not_idle_or_done h0 h20)]

/-! ## The step under a control word, and a placed word (R61, R200) -/

/-- A host command answers a next state and leaves the ports to the host (R48). -/
theorem exec_decodeCtrl_ports (w : Ctrl) (s : State) :
    ∃ t, exec (decodeCtrl w) s = .next t ∧ t.pins = s.pins ∧ t.inputs = s.inputs ∧ t.cycle = s.cycle := by
  rcases decodeCtrl_cases w with h | h | ⟨x, h⟩
  · exact ⟨_, by rw [h, exec_nop], by simp⟩
  · exact ⟨_, by rw [h, exec_start], by simp⟩
  · exact ⟨_, by rw [h, exec_reset], by simp⟩

/-- A step runs the command that the control word decodes to, and then the ports go on. -/
theorem step_of_exec {s t : State} (h : exec (decodeCtrl (ctrl s)) s = .next t) : step s = .next (advancePins t) := by
  have h' : exec (fetch s) s = .next t := h
  simp [step, h']

theorem nextPins_eq_head (s : State) : nextPins s = s.inputs.head?.getD (Config.freePins s.cycle) := by
  unfold nextPins
  cases s.inputs <;> rfl

/-- Settles O5: the command leaves the ports alone, and they go on from where they stood. -/
theorem stepRunsTheDecodedHostCommand : Obligations.StepRunsTheDecodedHostCommand := by
  intro s i h
  obtain rfl : decodeCtrl (ctrl s) = i := Decoded.instr.inj ((decode_hostCtrl_toNat _).symm.trans h)
  obtain ⟨t, ht, hpins, hinputs, hcycle⟩ := exec_decodeCtrl_ports (ctrl s) s
  refine ⟨t, ht, hpins, hinputs, hcycle, ?_⟩
  rw [step_of_exec ht, advancePins, nextPins_eq_head, hinputs, hcycle]

theorem decodeTableWord_eq_some {nbits w : Nat} {i : Instr} (h : decodeTableWord nbits w = some i) :
    decode (tableFormat nbits) w = .instr i := by
  unfold decodeTableWord at h
  split at h
  · next hd => rw [hd, Option.some.inj h]
  · cases h

/-- A placed control word stands on the pins. -/
theorem ctrl_placeCtrl (s : State) (c : Ctrl) : ctrl (placeCtrl s c.toNat) = c := by
  have bits : ∀ c : Ctrl, BitVec.ofBool (c.toNat.testBit 1) ++ BitVec.ofBool (c.toNat.testBit 0) = c := by decide
  exact bits c

/-- A placed state code stands in `STATE`. -/
theorem placeStateCode_toNat_STATE (s : State) (c : StateCode) : (placeStateCode s c.toNat).STATE = c := by
  rw [placeStateCode_STATE, BitVec.ofNat_toNat, BitVec.setWidth_eq]

/-- Settles O7: a control word is sampled from the pins it was placed on; a state code selects its micro-op, since
`rst = 0`. -/
theorem placedTableWordIsRunNext : Obligations.PlacedTableWordIsRunNext := by
  intro s nbits w i h
  have hd := decodeTableWord_eq_some h
  unfold State.withFetchWord placeTableWord
  cases hf : tableFormat nbits with
  | hostCtrl =>
    obtain ⟨c, rfl, rfl⟩ := ctrl_of_decode (hf ▸ hd)
    obtain ⟨t, ht⟩ := exec_next (decodeCtrl c) (placeCtrl s c.toNat)
    exact ⟨t, ht, step_of_exec (by rw [ctrl_placeCtrl, ht])⟩
  | fsmState =>
    obtain ⟨c, rfl, rfl⟩ := stateCode_of_decode (hf ▸ hd)
    have hx := exec_decodeStateCode (placeStateCode s c.toNat)
    rw [placeStateCode_toNat_STATE] at hx
    exact ⟨_, hx, step_of_not_rst rfl⟩

end Sys2Proof.Machine
end

section
/-! PROOFS. The cycles of a host program, and one operation under a host that waits for `done`. -/

namespace Sys2Proof.Machine

/-! ## One cycle of each statement (R68) -/

/-- A cycle of a program is the settled cycle of its statements; the program field itself is not read. -/
theorem hostCycle_withProgram (h : HostRun) (p : List HostStmt) :
    hostCycle { h with program := p } = settledCycle (settleStmts h p) :=
  congrArg settledCycle (settleStmts_program p h p)

/-- A WAITDONE in a cycle that begins with `done = 0` stays. -/
theorem settleStmts_waitDone_of_not_done {h : HostRun} (hd : done h.engine = false) (p : List HostStmt) :
    settleStmts h (.waitDone :: p) = { h with program := .waitDone :: p } := by
  simp [settleStmts, hd]

/-- A WAITDONE in a cycle that begins with `done = 1` takes no cycle. -/
theorem settleStmts_waitDone_of_done {h : HostRun} (hd : done h.engine = true) (p : List HostStmt) :
    settleStmts h (.waitDone :: p) = settleStmts h p := by
  simp [settleStmts, hd]

/-- Settles O41: a statement that takes a cycle is settled already, and one that takes none is passed by settling. -/
theorem hostStatementsDriveTheirCycles : Obligations.HostStatementsDriveTheirCycles := by
  refine ⟨fun h p b k n => ⟨rfl, rfl, rfl, rfl, ?_, ?_, fun hd => ?_, fun hd => ?_, ?_, ?_⟩,
    fun h p rst start => driveCycle_next rst start p h⟩
  · rw [hostCycle_withProgram, hostCycle_withProgram, settleStmts]
  · rw [hostCycle_withProgram, hostCycle_withProgram, settleStmts]
  · rw [hostCycle_withProgram, settleStmts_waitDone_of_not_done hd]
    rfl
  · rw [hostCycle_withProgram, hostCycle_withProgram, settleStmts_waitDone_of_done hd]
  · rw [hostCycle_withProgram, settleStmts]
    exact (hostCycle_withProgram { h with reads := h.reads ++ [h.engine.RES] } p).symm
  · rw [hostCycle_withProgram, settleStmts]
    exact (hostCycle_withProgram { h with blockIn := b, keyIn := k } p).symm

/-! ## One operation under a host program (R69, R196) -/

/-- The engine stands in code `c` of the operation on `b` and `k`. -/
def OperationAt (b : Block) (k : MasterKey) (c : Nat) (s : State) : Prop :=
  s.STATE.toNat = c ∧ s.BLK = b ∧ s.KEY = k ∧ DatapathAgrees s

/-- An accepting edge begins the operation on the data ports' values in code 1 (R190). -/
theorem operationAt_of_accepts {s t : State} (hst : step s = .next t) (ha : Accepts s) :
    OperationAt s.pins.blockIn s.pins.keyIn 1 t := by
  rw [step_of_accepts ha] at hst
  cases hst
  exact ⟨rfl, rfl, rfl, datapathAgrees_of_code_le_one le_rfl⟩

/-- An edge without reset takes the operation to its next code. -/
theorem OperationAt.succ {b : Block} {k : MasterKey} {c : Nat} {s t : State} (h : OperationAt b k c s)
    (hst : step s = .next t) (hr : s.pins.rst = false) (h1 : 1 ≤ c) (h19 : c ≤ 19) : OperationAt b k (c + 1) t := by
  obtain ⟨rfl, rfl, rfl, hagree⟩ := h
  obtain ⟨u, hu, hcode, hblk, hkey⟩ := step_of_working hr h1 h19
  obtain rfl : u = t := Host.Outcome.next.inj (hu.symm.trans hst)
  exact ⟨hcode, hblk, hkey, step_keeps_datapathAgrees hagree hst⟩

/-- Before code 20 the operation is not done. -/
theorem OperationAt.done_eq_false {b : Block} {k : MasterKey} {c : Nat} {s : State} (h : OperationAt b k c s)
    (h19 : c ≤ 19) : done s = false := by
  obtain ⟨hcode, _⟩ := h
  rw [Bool.eq_false_iff, ne_eq, done_iff]
  omega

theorem OperationAt.done_eq_true {b : Block} {k : MasterKey} {s : State} (h : OperationAt b k 20 s) :
    done s = true := by
  obtain ⟨hcode, _⟩ := h
  exact (done_iff s).mpr hcode

/-- In DONE the result is the ciphertext. -/
theorem OperationAt.result_eq {b : Block} {k : MasterKey} {s : State} (h : OperationAt b k 20 s) :
    result s = desEncrypt b k := by
  have ⟨_, hblk, hkey, hagree⟩ := h
  rw [result_of_done hagree h.done_eq_true, hblk, hkey]

/-- The cycle of a START in IDLE or DONE begins the operation on its block and key. -/
theorem hostCycle_start {h : HostRun} {b : Block} {k : MasterKey} {p : List HostStmt}
    (hrest : h.engine.STATE = 0 ∨ h.engine.STATE = 20) (hp : h.program = .start b k :: p) :
    ∃ t, hostCycle h = .next { h with engine := t, blockIn := b, keyIn := k, program := p } ∧ OperationAt b k 1 t := by
  obtain ⟨t, hst, hdrive⟩ := driveCycle_next false true p { h with blockIn := b, keyIn := k }
  refine ⟨t, ?_, operationAt_of_accepts hst ⟨(idle_or_done_iff h.engine).mp hrest, rfl, rfl⟩⟩
  rw [hostCycle, settle, hp]
  exact hdrive

/-- A WAITDONE cycle that begins before code 20 lets the operation go on. -/
theorem hostCycle_waitDone {h : HostRun} {b : Block} {k : MasterKey} {c : Nat} {p : List HostStmt}
    (ho : OperationAt b k c h.engine) (h1 : 1 ≤ c) (h19 : c ≤ 19) (hp : h.program = .waitDone :: p) :
    ∃ t, hostCycle h = .next { h with engine := t } ∧ OperationAt b k (c + 1) t := by
  obtain ⟨t, hst, hdrive⟩ := driveCycle_next false false (.waitDone :: p) h
  refine ⟨t, ?_, OperationAt.succ (s := { h.engine with pins := ⟨false, false, h.blockIn, h.keyIn⟩ }) ho hst rfl h1 h19⟩
  cases h
  cases hp
  rw [hostCycle, settle, settleStmts_waitDone_of_not_done (ho.done_eq_false h19)]
  exact hdrive

theorem hostCycles_succ (n : Nat) {h h' : HostRun} (hc : hostCycle h = .next h') :
    hostCycles (n + 1) h = hostCycles n h' := by
  simp [hostCycles, hc]

/-- `n` cycles of a WAITDONE take the operation `n` codes on. -/
theorem hostCycles_waitDone {b : Block} {k : MasterKey} {p : List HostStmt} (n : Nat) :
    ∀ {h : HostRun} {c : Nat}, OperationAt b k c h.engine → 1 ≤ c → c + n ≤ 20 → h.program = .waitDone :: p →
      ∃ t, hostCycles n h = .next (settle { h with engine := t }) ∧ OperationAt b k (c + n) t := by
  induction n with
  | zero => exact fun {h _} ho _ _ _ => ⟨h.engine, rfl, ho⟩
  | succ n ih =>
    intro h c ho h1 hcn hp
    obtain ⟨t, hc, ht⟩ := hostCycle_waitDone ho h1 (by omega) hp
    obtain ⟨u, hcs, hu⟩ := ih (h := { h with engine := t }) ht (by omega) (by omega) hp
    exact ⟨u, (hostCycles_succ n hc).trans hcs, by rwa [show c + (n + 1) = c + 1 + n by omega]⟩

/-- After `n + 1` cycles of an ENCRYPT from IDLE or DONE the engine stands in code `n + 1` of the operation, and WAITDONE and
READ remain to be settled. -/
theorem hostCycles_encrypt {h : HostRun} {b : Block} {k : MasterKey}
    (hrest : h.engine.STATE = 0 ∨ h.engine.STATE = 20) (hp : h.program = encryptStmts b k) {n : Nat} (hn : n ≤ 19) :
    ∃ t, OperationAt b k (n + 1) t ∧ hostCycles (n + 1) h =
      .next (settleStmts { h with engine := t, blockIn := b, keyIn := k } [.waitDone, .read]) := by
  obtain ⟨t, hc, ht⟩ := hostCycle_start hrest hp
  obtain ⟨u, hcs, hu⟩ := hostCycles_waitDone n
    (h := { h with engine := t, blockIn := b, keyIn := k, program := [.waitDone, .read] }) ht le_rfl (by omega) rfl
  refine ⟨u, by rwa [Nat.add_comm], (hostCycles_succ n hc).trans (hcs.trans ?_)⟩
  exact congrArg _ (settleStmts_program _ { h with engine := u, blockIn := b, keyIn := k } _)

/-- Settles O39: before code 20 the WAITDONE stays, and in code 20 it ends and READ records the ciphertext. -/
theorem encryptTransactionReadsTheCiphertext : Obligations.EncryptTransactionReadsTheCiphertext := by
  intro h b k hrest hp
  refine ⟨rfl, fun n h1 h19 => ?_, ?_⟩
  · obtain ⟨n, rfl⟩ := Nat.exists_eq_add_of_le' h1
    obtain ⟨t, ht, hcs⟩ := hostCycles_encrypt hrest hp (n := n) (by omega)
    rw [settleStmts_waitDone_of_not_done (ht.done_eq_false h19)] at hcs
    exact ⟨_, hcs, rfl, rfl⟩
  · obtain ⟨t, ht, hcs⟩ := hostCycles_encrypt hrest hp (n := 19) le_rfl
    rw [settleStmts_waitDone_of_done ht.done_eq_true] at hcs
    exact ⟨_, hcs, rfl, congrArg (fun r => h.reads ++ [r]) ht.result_eq⟩

end Sys2Proof.Machine
end

section
/-! PROOFS. PermutationEngine and its six tables. The statements of family 40_permutation_engine are settled from these. -/

namespace Sys2Proof.Machine

/-! ## Output bits by the table's entries (R100) -/

/-- A table names a bit of the input for every output bit. -/
theorem Table.exists_entry {wIn wOut : Nat} (T : Table wIn wOut) {n : Nat} (h1 : 1 ≤ n) (hn : n ≤ wOut) :
    ∃ e, T.entries[n - 1]? = some e ∧ 1 ≤ e ∧ e ≤ wIn := by
  have hl : n - 1 < T.entries.length := by rw [T.length_eq]; omega
  exact ⟨_, List.getElem?_eq_getElem hl, T.entry_inRange hl⟩

/-- `desBit_perm` for an entry that the table is known to hold. -/
theorem desBit_perm_of_entry {wIn wOut : Nat} {T : Table wIn wOut} (v : BitVec wIn) {n e : Nat} (h1 : 1 ≤ n)
    (he : T.entries[n - 1]? = some e) : desBit (perm T v) n = desBit v e := by
  obtain ⟨hl, rfl⟩ := List.getElem?_eq_some_iff.mp he
  rw [T.length_eq] at hl
  exact desBit_perm T v h1 (by omega)

theorem perm_zero {wIn wOut : Nat} (T : Table wIn wOut) : perm T (0 : BitVec wIn) = 0 := by
  apply eq_of_desBit
  intro n h1 hn
  rw [desBit_perm T _ h1 hn, desBit_zero, desBit_zero]

/-- All ones are the complement of zero, and a permutation carries a complement through. -/
theorem perm_allOnes {wIn wOut : Nat} (T : Table wIn wOut) :
    perm T (BitVec.allOnes wIn) = BitVec.allOnes wOut := by
  have h : perm T (~~~(0 : BitVec wIn)) = ~~~(0 : BitVec wOut) := by rw [perm_not, perm_zero]
  simpa using h

/-- The bits that the table names, in the table's order, are the bits of the output. -/
theorem perm_eq_of_map_desBit {wIn wOut : Nat} {T : Table wIn wOut} {v : BitVec wIn} {u : BitVec wOut}
    (h : T.entries.map (desBit v) = (List.range' 1 wOut).map (desBit u)) : perm T v = u := by
  apply eq_of_desBit
  intro n h1 hn
  obtain ⟨e, he, -⟩ := T.exists_entry h1 hn
  have hbit : some (desBit v e) = some (desBit u n) := by
    simpa [he, show n - 1 < wOut by omega, show 1 + (n - 1) = n by omega] using congrArg (·[n - 1]?) h
  rw [desBit_perm_of_entry v h1 he, Option.some.inj hbit]

/-- R100's example: the image of the value under table IP. -/
theorem perm_tableIP_example : perm tableIP 0x0123456789ABCDEF = 0xCC00CCFFF0AAF0AA :=
  perm_eq_of_map_desBit (by decide)

/-- Settles O42: an output bit is the input bit its entry names, from which zero and all ones follow. -/
theorem permMovesTheBitsTheTableNames : Obligations.PermMovesTheBitsTheTableNames := by
  refine ⟨fun wIn wOut T v => ⟨fun n h1 hn => ?_, perm_zero T, perm_allOnes T⟩, perm_tableIP_example⟩
  obtain ⟨e, he, hr1, hr⟩ := T.exists_entry h1 hn
  exact ⟨e, he, hr1, hr, desBit_perm_of_entry v h1 he⟩

/-! ## FP and IP (R104) -/

/-- IP[FP[n]] = n, with `n` counted from 0. -/
theorem tableIP_entry_at_tableFP_entry (n : Fin 64) :
    tableIP.entries[tableFP.entries[n.val]?.getD 0 - 1]? = some (n.val + 1) := by
  decide +revert

/-- `tableIP_entry_at_tableFP_entry` with `n` counted from 1 and the entry of FP named. -/
theorem tableFP_entry_locates_bit {n : Nat} (h1 : 1 ≤ n) (h64 : n ≤ 64) :
    ∃ m, tableFP.entries[n - 1]? = some m ∧ tableIP.entries[m - 1]? = some n := by
  obtain ⟨m, hm, -⟩ := tableFP.exists_entry h1 h64
  have h := tableIP_entry_at_tableFP_entry ⟨n - 1, by omega⟩
  rw [hm, Nat.sub_add_cancel h1] at h
  exact ⟨m, hm, h⟩

/-- `T` undoes `U` on values when each entry of `T` says where `U` put the bit. -/
theorem perm_perm_of_entries {w : Nat} {T U : Table w w}
    (h : ∀ n, 1 ≤ n → n ≤ w → ∃ m, T.entries[n - 1]? = some m ∧ U.entries[m - 1]? = some n) (v : BitVec w) :
    perm T (perm U v) = v := by
  apply eq_of_desBit
  intro n h1 hn
  obtain ⟨m, hT, hU⟩ := h n h1 hn
  have hm : 1 ≤ m := (T.inRange m (List.mem_of_getElem? hT)).1
  rw [desBit_perm_of_entry _ h1 hT, desBit_perm_of_entry _ hm hU]

theorem fpperm_ipperm (v : Block) : fpperm (ipperm v) = v :=
  perm_perm_of_entries (fun _ => tableFP_entry_locates_bit) v

/-- A left inverse between finite types of equal size is a right inverse. -/
theorem ipperm_fpperm (v : Block) : ipperm (fpperm v) = v :=
  Function.LeftInverse.rightInverse_of_card_le fpperm_ipperm le_rfl v

/-- Settles O44: the inverse law of the tables, carried to the values bit by bit. -/
theorem finalPermutationInvertsTheInitial : Obligations.FinalPermutationInvertsTheInitial :=
  ⟨fun _ => tableFP_entry_locates_bit, fun v => ⟨fpperm_ipperm v, ipperm_fpperm v⟩⟩

/-! ## The tables (R101) -/

/-- A square table without repetitions is a permutation of its index set: its entries lie in that set and are as many. -/
theorem Table.entries_perm_of_nodup {w : Nat} (T : Table w w) (h : T.entries.Nodup) :
    T.entries.Perm (List.range' 1 w) := by
  have hsub : T.entries ⊆ List.range' 1 w := by
    intro e he
    have hr := T.inRange e he
    rw [List.mem_range'_1]
    omega
  exact (h.subperm hsub).perm_of_length_le (by rw [List.length_range', T.length_eq])

/-- Settles O43: IP, FP and P repeat no entry and so are permutations; FP inverts IP as in R104; the bits that E repeats
and that PC-1 and PC-2 leave out are read off the tables. -/
theorem tablesHaveTheStatedProperties : Obligations.TablesHaveTheStatedProperties := by
  refine ⟨tableIP.entries_perm_of_nodup ?ip, tableFP.entries_perm_of_nodup ?fp, tableIP_entry_at_tableFP_entry,
    ?expansion, tableP.entries_perm_of_nodup ?p, ?pc1, ?pc1Omits, ?pc2, ?pc2Omits⟩
  case ip | fp | p | pc1 | pc2 => decide
  case expansion | pc1Omits | pc2Omits => decide

end Sys2Proof.Machine
end

section
/-! PROOFS. The S-box bank and its tables. The statements of family 42_sbox_bank are settled from these. -/

namespace Sys2Proof.Machine

/-! ## Row and column of a sextet (R120) -/

/-- Bit `n` of the sextet under index `j`, with `n` counted from 1, stands at bit `6j + n` of the bank's input. -/
theorem desBit_sextet (x : ExpandedHalf) (j : Fin 8) {n : Nat} (h1 : 1 ≤ n) (h6 : n ≤ 6) :
    desBit (sextet x j) n = desBit x (6 * j.val + n) := by
  have hpos : 42 - 6 * j.val + (6 - n) = 48 - (6 * j.val + n) := by omega
  have hin : 6 - n < 6 := by omega
  simp [desBit, sextet, hpos, hin]

theorem toNat_sextetRow : ∀ b : Sextet, (sextetRow b).toNat = 2 * (desBit b 1).toNat + (desBit b 6).toNat := by
  decide

theorem toNat_sextetCol : ∀ b : Sextet, (sextetCol b).toNat =
    8 * (desBit b 2).toNat + 4 * (desBit b 3).toNat + 2 * (desBit b 4).toNat + (desBit b 5).toNat := by
  decide

/-- The row of a sextet, named by the bits of the bank's input it comes from. -/
theorem sextetRow_toFin_eq {x : ExpandedHalf} {j : Fin 8} {row : Fin 4}
    (h : row.val = 2 * (desBit x (6 * j.val + 1)).toNat + (desBit x (6 * j.val + 6)).toNat) :
    (sextetRow (sextet x j)).toFin = row := by
  apply Fin.ext
  simp (disch := decide) only [h, BitVec.val_toFin, toNat_sextetRow, desBit_sextet]

/-- The column of a sextet, named by the bits of the bank's input it comes from. -/
theorem sextetCol_toFin_eq {x : ExpandedHalf} {j : Fin 8} {col : Fin 16}
    (h : col.val = 8 * (desBit x (6 * j.val + 2)).toNat + 4 * (desBit x (6 * j.val + 3)).toNat +
      2 * (desBit x (6 * j.val + 4)).toNat + (desBit x (6 * j.val + 5)).toNat) :
    (sextetCol (sextet x j)).toFin = col := by
  apply Fin.ext
  simp (disch := decide) only [h, BitVec.val_toFin, toNat_sextetCol, desBit_sextet]

/-! ## The lookup and the nibble's place (R41, R121) -/

/-- The ROM word at address `row ++ col` is the entry of the table at that row and column (R41). -/
theorem toNat_romWord_append (S : SBox) (row : BitVec 2) (col : BitVec 4) :
    (romWord S (row ++ col)).toNat = S.rows[row.toFin][col.toFin] := by
  simp only [romWord, BitVec.extractLsb'_append_eq_left, BitVec.extractLsb'_append_eq_right, BitVec.toNat_ofNatLT]

/-- The output nibble is the entry at its sextet's row and column. -/
theorem toNat_sboxNibble (x : ExpandedHalf) (j : Fin 8) :
    (sboxNibble x j).toNat = (sboxTable j).rows[(sextetRow (sextet x j)).toFin][(sextetCol (sextet x j)).toFin] :=
  toNat_romWord_append _ _ _

/-- Nibble `j` of the output, the first under index 0 and most significant: cutting off the nibbles after it leaves it
the lowest. -/
theorem extractLsb'_sbox (x : ExpandedHalf) (j : Fin 8) :
    (sbox x).extractLsb' (28 - 4 * j.val) 4 = sboxNibble x j := by
  unfold sbox
  fin_cases j
  all_goals repeat rw [BitVec.extractLsb'_append_eq_of_le (by decide)]
  · exact BitVec.extractLsb'_eq_self
  all_goals exact BitVec.extractLsb'_append_eq_right

/-- Settles O46: the nibble at its place in the output is the one of sextet `j`, and that one is the entry at the row and
column which the bits of the input name. -/
theorem sBoxBankLooksUpEachSextet : Obligations.SBoxBankLooksUpEachSextet := by
  intro x j row col hrow hcol
  obtain rfl := sextetRow_toFin_eq hrow
  obtain rfl := sextetCol_toFin_eq hcol
  rw [extractLsb'_sbox, toNat_sboxNibble]

/-! ## The rows of the tables (R130) -/

/-- A row without repetitions is a permutation of 0 to 15: it has sixteen entries, and the table bounds each by 16. -/
theorem SBox.row_perm_of_nodup (S : SBox) {r : Fin 4} (h : S.rows[r].toList.Nodup) :
    S.rows[r].toList.Perm (List.range 16) := by
  have hsub : S.rows[r].toList ⊆ List.range 16 := by
    intro e he
    obtain ⟨c, hc, rfl⟩ := List.getElem_of_mem he
    rw [Vector.length_toList] at hc
    exact List.mem_range.mpr (S.bounded r ⟨c, hc⟩)
  exact (h.subperm hsub).perm_of_length_le (by rw [List.length_range, Vector.length_toList])

theorem sboxTable_rows_nodup : ∀ (j : Fin 8) (r : Fin 4), (sboxTable j).rows[r].toList.Nodup := by
  decide

/-- Settles O47: no row repeats an entry, and every entry is below 16. -/
theorem sBoxRowsArePermutations : Obligations.SBoxRowsArePermutations :=
  fun j r => (sboxTable j).row_perm_of_nodup (sboxTable_rows_nodup j r)

end Sys2Proof.Machine
end

section
/-! PROOFS. The expansion. The statements of family 43_expansion are settled from these. -/

namespace Sys2Proof.Machine

/-- R140, row by row: six entries that start at the last bit of the group before group `g` and count on cyclically. -/
theorem tableE_entry (g : Fin 8) (k : Fin 6) :
    tableE.entries[6 * g.val + k.val]? = some ((4 * g.val + k.val + 31) % 32 + 1) := by
  decide +revert

/-- Settles O45: table E names the flanked groups, and the expansion moves the bits its table names. -/
theorem expansionFlanksEachGroup : Obligations.ExpansionFlanksEachGroup := by
  intro r g k hg hk
  exact desBit_perm_of_entry r (Nat.le_add_left 1 _) (tableE_entry ⟨g, hg⟩ ⟨k, hk⟩)

end Sys2Proof.Machine
end

section
/-! PROOFS. The round function. The statement of family 44_feistel_f is settled from these. -/

namespace Sys2Proof.Machine

/-! ## The four steps of f (R150) -/

/-- A run of the four steps: the value after E, after the XOR, after the S-boxes and after P. -/
theorem feistelF_eq_of_steps {r : HalfBlock} {k : RoundKey} {e x : ExpandedHalf} {s p : HalfBlock}
    (he : expand r = e) (hx : bitwiseXor e k = x) (hs : sbox x = s) (hp : perm tableP s = p) : feistelF r k = p := by
  rw [feistelF, he, hx, hs, hp]

/-- The steps after the XOR see nothing of `r` and `k` but the XOR. -/
theorem feistelF_congr {r r' : HalfBlock} {k k' : RoundKey} (h : expand r ^^^ k = expand r' ^^^ k') :
    feistelF r k = feistelF r' k' :=
  congrArg (fun x => perm tableP (sbox x)) h

theorem expand_zero : expand 0x00000000 = 0x000000000000 := perm_zero tableE

theorem expand_allOnes : expand 0xFFFFFFFF = 0xFFFFFFFFFFFF := perm_allOnes tableE

/-! ## The corner cases and the example of R150 -/

theorem feistelF_zero_zero : feistelF 0x00000000 0x000000000000 = 0xD8D8DBBC :=
  feistelF_eq_of_steps (x := 0x000000000000) (s := 0xEFA72C4D) expand_zero (by decide) (by decide)
    (perm_eq_of_map_desBit (by decide))

theorem feistelF_zero_allOnes : feistelF 0x00000000 0xFFFFFFFFFFFF = 0x38DBF9CB :=
  feistelF_eq_of_steps (x := 0xFFFFFFFFFFFF) (s := 0xD9CE3DCB) expand_zero (by decide) (by decide)
    (perm_eq_of_map_desBit (by decide))

/-- E of all ones is all ones, so the XOR is the one of `feistelF_zero_allOnes`. -/
theorem feistelF_allOnes_zero : feistelF 0xFFFFFFFF 0x000000000000 = 0x38DBF9CB := by
  have hxor : expand 0xFFFFFFFF ^^^ 0x000000000000 = expand 0x00000000 ^^^ 0xFFFFFFFFFFFF := by
    rw [expand_allOnes, expand_zero, BitVec.xor_comm]
  rw [feistelF_congr hxor, feistelF_zero_allOnes]

/-- The values of R150's example after each step. -/
theorem feistelF_example : feistelF 0xF0AAF0AA 0x1B02EFFC7072 = 0x234AA9BB :=
  feistelF_eq_of_steps (e := 0x7A15557A1555) (x := 0x6117BA866527) (s := 0x5C82B597)
    (perm_eq_of_map_desBit (by decide)) (by decide) (by decide) (perm_eq_of_map_desBit (by decide))

/-- Settles O56: the four steps are the definition of `f`, and only the XOR reaches the S-boxes. -/
theorem roundFunctionIsItsFourSteps : Obligations.RoundFunctionIsItsFourSteps :=
  ⟨fun _ _ => rfl, fun _ _ _ _ => feistelF_congr, feistelF_zero_zero, feistelF_allOnes_zero, feistelF_zero_allOnes,
    feistelF_example⟩

end Sys2Proof.Machine
end

section
/-! PROOFS. PC-1, the rotations, the round keys and the rounds that use them. The statements of family 45_key_schedule are
settled from these. -/

namespace Sys2Proof.Machine

/-! ## Rotation of a key half (R162) -/

/-- Counted from the most significant end, the bit `n` places on moves to place `m`, and the first `n` bits come last. -/
theorem desBit_rotl28 (v : KeyHalf) {n m : Nat} (hn : n < 28) (h1 : 1 ≤ m) (h28 : m ≤ 28) :
    desBit (rotl28 v n) m = if m ≤ 28 - n then desBit v (m + n) else desBit v (m + n - 28) := by
  rw [desBit, getLsbD_rotl28 v n (by omega), desBit, desBit]
  split_ifs <;> (congr 1; omega)

theorem rotl28_zeros (n : Nat) : rotl28 0x0000000 n = 0x0000000 := by
  apply BitVec.eq_of_getLsbD_eq
  intro i hi
  rw [getLsbD_rotl28 _ _ hi, BitVec.ofNat_eq_ofNat, BitVec.getLsbD_zero, BitVec.getLsbD_zero]

/-- All ones are the complement of zero, and a rotation carries a complement through. -/
theorem rotl28_allOnes (n : Nat) : rotl28 0xFFFFFFF n = 0xFFFFFFF := by
  have h : rotl28 (~~~0x0000000) n = ~~~0x0000000 := by rw [rotl28_not, rotl28_zeros]
  exact h

/-- Settles O57: the slices of R162, the rotation bit by bit, and the rule's values. -/
theorem rotationMovesTheLeadingBits : Obligations.RotationMovesTheLeadingBits := by
  refine ⟨fun v => ⟨rotl28_one v, rotl28_two v, fun n m hn h1 h28 => desBit_rotl28 v (by omega) h1 h28, rotl28_28 v⟩,
    fun n _ => ⟨rotl28_zeros n, rotl28_allOnes n⟩, ?_⟩
  decide

/-! ## The rotation schedule (R163) -/

/-- Rotation by no bits is a whole turn. -/
theorem rotl28_amount_zero (v : KeyHalf) : rotl28 v 0 = v := by
  simpa [rotl28_28] using rotl28_rotl28 v 28 0

/-- Rotations add up, so the halves `i` are PC-1's rotated by the first `i` amounts together. -/
theorem keyHalves_eq_rotl28_pc1split (key : MasterKey) (i : Nat) :
    keyHalves key i = (rotl28 (pc1split key).1 ((List.range' 1 i).map roundShift).sum,
      rotl28 (pc1split key).2 ((List.range' 1 i).map roundShift).sum) := by
  induction i with
  | zero => simp [rotl28_amount_zero]
  | succ i ih =>
    rw [keyHalves_succ, ih, rotl28_rotl28, rotl28_rotl28, List.range'_1_concat, List.map_append, List.sum_append,
      Nat.add_comm 1 i]
    rfl

theorem roundShifts_sum : roundShifts.sum = 28 := by decide

/-- The sixteen amounts are one whole turn. -/
theorem keyHalves_sixteen (key : MasterKey) : keyHalves key 16 = keyHalves key 0 := by
  have hsum : ((List.range' 1 16).map roundShift).sum = 28 := roundShifts_sum
  rw [keyHalves_eq_rotl28_pc1split, hsum, rotl28_28, rotl28_28, keyHalves_zero]

/-- Settles O49: the amounts by the rule and in order, and their sum as a whole turn of each half. -/
theorem rotationScheduleReturnsTheKeyHalves : Obligations.RotationScheduleReturnsTheKeyHalves :=
  ⟨fun i _ _ => by simp [roundShift], by decide, roundShifts_sum, keyHalves_sixteen⟩

/-! ## The sixteen round keys and the rounds that use them (R166, R167) -/

/-- Settles O50: the halves go on by their recursion, and the list reads PC-2 off them. -/
theorem keyScheduleListsTheSixteenRoundKeys : Obligations.KeyScheduleListsTheSixteenRoundKeys := by
  refine fun key => ⟨keysched_length key, keyHalves_zero key, fun i h1 h16 => ?_⟩
  obtain ⟨i, rfl⟩ := Nat.exists_eq_add_of_le' h1
  exact ⟨keyHalves_succ key i, keysched_getElem? key h16⟩

/-- From the halves `i` the engine forms round key `i + 1` of the schedule. -/
theorem keysched_getElem?_eq_currentRoundKey {s : State} {i : Nat} (hi : i < 16)
    (h : (s.C, s.D) = keyHalves s.KEY i) : (keysched s.KEY)[i]? = some (currentRoundKey (i + 1) s) := by
  rw [keysched_getElem? s.KEY hi, keyHalves_succ, ← h]
  rfl

/-- The edge of ROUND `i + 1` rotates the halves `i` on to the halves `i + 1`. -/
theorem roundEdge_keyHalves {s : State} {i : Nat} (h : (s.C, s.D) = keyHalves s.KEY i) :
    ((roundEdge (i + 1) s).C, (roundEdge (i + 1) s).D) = keyHalves s.KEY (i + 1) := by
  rw [keyHalves_succ, ← h]
  rfl

/-- Settles O51: IP loads the halves 0, and the step in ROUNDi is the round's edge with the current round key. -/
theorem eachRoundConsumesItsRoundKey : Obligations.EachRoundConsumesItsRoundKey := by
  refine ⟨fun s t h => ?_, fun s i h1 h16 hcode hr hCD => ?_⟩
  · obtain rfl : ipEdge s = t := Host.Outcome.next.inj h
    rfl
  · have hstep : step s = .next (advancePins (roundEdge i s)) := by
      rw [step_of_not_rst hr, sequencerEdge_round _ h1 h16 hcode]
    obtain ⟨i, rfl⟩ := Nat.exists_eq_add_of_le' h1
    exact ⟨_, _, keysched_getElem?_eq_currentRoundKey h16 hCD, hstep, rfl, rfl, roundEdge_keyHalves hCD⟩

/-! ## The parity bits (R160) -/

theorem tablePC1_entry_not_parity : ∀ e ∈ tablePC1.entries, e % 8 ≠ 0 := by decide

/-- PC-1 names no parity bit. -/
theorem pc1split_congr {k k' : MasterKey}
    (h : ∀ n : Nat, 1 ≤ n → n ≤ 64 → n % 8 ≠ 0 → desBit k n = desBit k' n) : pc1split k = pc1split k' := by
  refine congrArg splitPermutedKey (perm_congr tablePC1 fun e he => ?_)
  obtain ⟨h1, h64⟩ := tablePC1.inRange e he
  exact h e h1 h64 (tablePC1_entry_not_parity e he)

/-- The key enters the cipher through its halves alone. -/
theorem desEncrypt_congr {k k' : MasterKey} (h : pc1split k = pc1split k') (b : Block) :
    desEncrypt b k = desEncrypt b k' := by
  rw [desEncrypt, desEncrypt, keysched, keysched, h]

/-- Settles O52: no parity bit passes PC-1, and the rest of the cipher sees PC-1's halves only. -/
theorem parityBitsAreIgnored : Obligations.ParityBitsAreIgnored :=
  fun _ _ h => ⟨pc1split_congr h, desEncrypt_congr (pc1split_congr h)⟩

/-! ## PC-2 (R164, R165) -/

/-- The first bits of a concatenation are those of its first part. -/
theorem desBit_append_left {v w n : Nat} (x : BitVec v) (y : BitVec w) (hn : n ≤ v) :
    desBit (x ++ y) n = desBit x n := by
  rw [desBit, desBit, BitVec.getLsbD_append, if_neg (by omega)]
  congr 1
  omega

/-- The bits after the first part of a concatenation are those of its second part. -/
theorem desBit_append_right {v w n : Nat} (x : BitVec v) (y : BitVec w) (hv : v < n) (hn : n ≤ v + w) :
    desBit (x ++ y) n = desBit y (n - v) := by
  rw [desBit, desBit, BitVec.getLsbD_append, if_pos (by omega)]
  congr 1
  omega

/-- R164: outputs 1 to 24 name bits of the first half, and outputs 25 to 48 bits of the second. -/
theorem tablePC2_entry_le_28_iff {n e : Nat} (h1 : 1 ≤ n) (h48 : n ≤ 48) (he : tablePC2.entries[n - 1]? = some e) :
    e ≤ 28 ↔ n ≤ 24 := by
  have hsplit : ∀ k : Fin 48, tablePC2.entries[k.val]?.getD 0 ≤ 28 ↔ k.val < 24 := by decide
  have h : e ≤ 28 ↔ n - 1 < 24 := by simpa [he] using hsplit ⟨n - 1, by omega⟩
  omega

/-- Bit `n` of the round key is the bit that PC-2 names, in the half it lies in. -/
theorem desBit_roundkey (c d : KeyHalf) {n : Nat} (h1 : 1 ≤ n) (h48 : n ≤ 48) :
    ∃ e, tablePC2.entries[n - 1]? = some e ∧
      (n ≤ 24 → 1 ≤ e ∧ e ≤ 28 ∧ desBit (roundkey c d) n = desBit c e) ∧
      (25 ≤ n → 29 ≤ e ∧ e ≤ 56 ∧ desBit (roundkey c d) n = desBit d (e - 28)) := by
  obtain ⟨e, he, hr1, hr⟩ := tablePC2.exists_entry h1 h48
  have hhalf := tablePC2_entry_le_28_iff h1 h48 he
  have hbit : desBit (roundkey c d) n = desBit (c ++ d) e := desBit_perm_of_entry _ h1 he
  refine ⟨e, he, fun hn => ?_, fun hn => ?_⟩
  · have he28 : e ≤ 28 := hhalf.mpr hn
    exact ⟨hr1, he28, hbit.trans (desBit_append_left c d he28)⟩
  · have he29 : 28 < e := by omega
    exact ⟨he29, hr, hbit.trans (desBit_append_right c d he29 hr)⟩

/-- Halves that no rotation changes form the same round key for every amount. -/
theorem keyschedFrom_of_rotl28_fixed {c d : KeyHalf} (hc : ∀ n, rotl28 c n = c) (hd : ∀ n, rotl28 d n = d)
    (ns : List Nat) : keyschedFrom c d ns = List.replicate ns.length (roundkey c d) := by
  induction ns with
  | nil => rfl
  | cons n ns ih => rw [keyschedFrom, hc, hd, ih, List.length_cons, List.replicate_succ]

/-- No rotation changes a half of all zeros or all ones. -/
theorem rotl28_of_uniform {v : KeyHalf} (h : v = 0x0000000 ∨ v = 0xFFFFFFF) (n : Nat) : rotl28 v n = v := by
  rcases h with rfl | rfl
  · exact rotl28_zeros n
  · exact rotl28_allOnes n

/-- The round keys of a key whose halves are each all zeros or all ones. -/
theorem keysched_of_uniform_halves {key : MasterKey} (hc : (pc1split key).1 = 0x0000000 ∨ (pc1split key).1 = 0xFFFFFFF)
    (hd : (pc1split key).2 = 0x0000000 ∨ (pc1split key).2 = 0xFFFFFFF) :
    keysched key = List.replicate 16 (roundkey (pc1split key).1 (pc1split key).2) :=
  keyschedFrom_of_rotl28_fixed (rotl28_of_uniform hc) (rotl28_of_uniform hd) roundShifts

theorem roundkey_zero : roundkey 0x0000000 0x0000000 = 0x000000000000 := perm_zero tablePC2

theorem roundkey_allOnes : roundkey 0xFFFFFFF 0xFFFFFFF = 0xFFFFFFFFFFFF := perm_allOnes tablePC2

/-- R165's example: the halves after round 1 and their round key. -/
theorem roundkey_example : roundkey 0xE19955F 0xAACCF1E = 0x1B02EFFC7072 := perm_eq_of_map_desBit (by decide)

/-- Settles O58: PC-2 over the concatenated halves bit by bit, keys whose halves rotate to themselves, and the rule's
values. -/
theorem roundKeySelectsFromBothHalves : Obligations.RoundKeySelectsFromBothHalves :=
  ⟨fun c d => ⟨rfl, fun _ => desBit_roundkey c d⟩, fun _ hc hd => ⟨_, keysched_of_uniform_halves hc hd⟩,
    roundkey_zero, roundkey_allOnes, roundkey_example⟩

end Sys2Proof.Machine
end

section
/-! PROOFS. The codes that each edge leads to, the step function written out, each micro-op as an instruction and as an
edge, and the laws of the cipher. The statements of family 46_pipeline are settled from these. -/

namespace Sys2Proof.Machine

/-! ## The code after an edge (R199) -/

/-- A rest code stays under `start = 0` and goes to IP under `start = 1` (R190, R195). -/
theorem sequencerEdge_code_of_rest {s : State} (start : Bool) (h : s.STATE.toNat = 0 ∨ s.STATE.toNat = 20) :
    (sequencerEdge start s).STATE = s.STATE ∨ (sequencerEdge start s).STATE = 1 := by
  rw [sequencerEdge_rest start h]
  cases start with
  | false => exact .inl rfl
  | true => exact .inr rfl

/-- Codes up to 20 lead to codes up to 20, and the reserved ones to IDLE (R197, R199). -/
theorem sequencerEdge_legal (start : Bool) (s : State) : LegalState (sequencerEdge start s) := by
  by_cases hrest : s.STATE.toNat = 0 ∨ s.STATE.toNat = 20
  · rcases sequencerEdge_code_of_rest start hrest with h | h <;> rw [LegalState, h]
    · omega
    · decide
  by_cases h19 : s.STATE.toNat ≤ 19
  · rw [LegalState, sequencerEdge_code_succ start (by omega) h19]
    omega
  · rw [sequencerEdge_reserved start (by omega)]
    exact Nat.zero_le 20

/-- Every step leaves a legal code, also one from a reserved code. -/
theorem step_legal {s t : State} (h : step s = .next t) : LegalState t := by
  rcases step_cases h with ⟨_, rfl⟩ | ⟨_, rfl⟩
  · exact Nat.zero_le 20
  · exact sequencerEdge_legal s.pins.start s

theorem code_eq_add_one {c d : StateCode} (h : d.toNat = c.toNat + 1) : d = c + 1 := by
  bv_omega

/-- Settles O30: the code after each kind of edge, and legality as an invariant of runs. -/
theorem onlyLegalCodesAreReached : Obligations.OnlyLegalCodesAreReached := by
  refine ⟨fun s t hst => ?_, fun n p ins => run_keeps (fun _ _ _ => step_legal) n _ (Nat.zero_le 20)⟩
  rcases step_cases hst with ⟨hr, rfl⟩ | ⟨hr, rfl⟩
  · simp [hr]
  · refine ⟨fun h => by simp [hr] at h, fun _ h0 => ?_, fun _ h1 h19 => ?_, fun _ h20 => ?_⟩
    · simpa [h0] using sequencerEdge_code_of_rest s.pins.start ((idle_or_done_iff s).mp (.inl h0))
    · exact code_eq_add_one (sequencerEdge_code_succ s.pins.start h1 h19)
    · simpa [h20] using sequencerEdge_code_of_rest s.pins.start ((idle_or_done_iff s).mp (.inr h20))

/-- Settles O31: every step answers, and leaves a legal code. -/
theorem everyStepLeavesALegalCode : Obligations.EveryStepLeavesALegalCode := by
  intro s
  obtain ⟨t, ht⟩ := step_next s
  exact ⟨t, ht, step_legal ht⟩

/-! ## The step function (R200) -/

/-- Settles O6: the micro-op of the state code is the sequencer's edge, and so is the step. -/
theorem stepRunsTheDecodedMicroOp : Obligations.StepRunsTheDecodedMicroOp := by
  intro s i hr h
  obtain rfl : decodeStateCode s.STATE = i := Decoded.instr.inj ((decode_fsmState_toNat _).symm.trans h)
  exact ⟨_, exec_decodeStateCode s, step_of_not_rst hr⟩

/-- In the codes of ROUND1 to ROUND16 the sequencer does the round one below the code and goes on to the next code. -/
theorem sequencerEdge_round_of_code {s : State} (start : Bool) (h2 : 2 ≤ s.STATE.toNat) (h17 : s.STATE.toNat ≤ 17) :
    ∃ i, s.STATE.toNat = i + 1 ∧ BitVec.ofNat 5 (i + 2) = s.STATE + 1 ∧ sequencerEdge start s = roundEdge i s := by
  obtain ⟨i, hi⟩ := Nat.exists_eq_add_of_le' (show 1 ≤ s.STATE.toNat by omega)
  exact ⟨i, hi, by bv_omega, sequencerEdge_round start (by omega) (by omega) hi⟩

/-- The rounds with shift 1 are those of the codes 2, 3, 10 and 17; every other round has shift 2 (R64). -/
theorem roundShift_of_code {c : StateCode} {i : Nat} (h : c.toNat = i + 1) :
    roundShift i = if c = 2 ∨ c = 3 ∨ c = 10 ∨ c = 17 then 1 else 2 := by
  have hcodes : (i = 1 ∨ i = 2 ∨ i = 9 ∨ i = 16) ↔ (c = 2 ∨ c = 3 ∨ c = 10 ∨ c = 17) := by bv_omega
  simp only [roundShift, hcodes]

theorem sameRegisters_of_eq {s t : State} (h : s = t) : SameRegisters s t := h ▸ sameRegisters_refl s

/-- What the host lists and the cycle count reach no micro-op. -/
theorem sequencerEdge_withHost (start : Bool) (s : State) (l : List Pins) (n : Nat) :
    sequencerEdge start { s with inputs := l, cycle := n } =
      { sequencerEdge start s with inputs := l, cycle := n } := by
  simp only [sequencerEdge]
  split_ifs <;> cases start <;> rfl

/-- Equal registers and equal ports leave the host's list and the cycle count free, and nothing else. -/
theorem eq_withHost_of_sameRegisters {s s' : State} (h : SameRegisters s s') (hp : s.pins = s'.pins) :
    s' = { s with inputs := s'.inputs, cycle := s'.cycle } := by
  obtain ⟨hSTATE, hBLK, hKEY, hL, hR, hC, hD, hRES⟩ := h
  rw [hSTATE, hBLK, hKEY, hL, hR, hC, hD, hRES, hp]

/-- The registers after the sequencer's edge are a function of the registers and the ports before it. -/
theorem sequencerEdge_sameRegisters {s s' : State} (h : SameRegisters s s') (hp : s.pins = s'.pins) (start : Bool) :
    SameRegisters (sequencerEdge start s) (sequencerEdge start s') := by
  rw [eq_withHost_of_sameRegisters h hp, sequencerEdge_withHost start s s'.inputs s'.cycle]
  exact sameRegisters_refl (sequencerEdge start s)

/-- The same for a whole step; a reset edge does not look at the registers. -/
theorem step_sameRegisters {s s' t t' : State} (h : SameRegisters s s') (hp : s.pins = s'.pins)
    (hst : step s = .next t) (hst' : step s' = .next t') : SameRegisters t t' := by
  cases hr : s.pins.rst with
  | true =>
    exact sameRegisters_trans (sameRegisters_reset_of_rst hr hst)
      (sameRegisters_symm (sameRegisters_reset_of_rst (hp ▸ hr) hst'))
  | false =>
    rw [step_of_not_rst hr] at hst
    rw [step_of_not_rst (hp ▸ hr), ← hp] at hst'
    cases hst
    cases hst'
    exact sequencerEdge_sameRegisters h hp s.pins.start

/-- Settles O8: each branch of the chain is the register transfer of its codes. -/
theorem stepFunctionIsTheOneOfTheSpec : Obligations.StepFunctionIsTheOneOfTheSpec := by
  refine ⟨fun s => ?_, fun _ _ _ _ => step_sameRegisters⟩
  cases hr : s.pins.rst with
  | true => exact ⟨_, step_of_rst hr, sameRegisters_advancePins (resetEdge s)⟩
  | false =>
    refine ⟨_, step_of_not_rst hr, ?_⟩
    rw [if_neg Bool.false_ne_true]
    refine sameRegisters_trans (sameRegisters_advancePins _) (sameRegisters_of_eq ?_)
    split_ifs with haccept hrest hip hround hshift hswap hfp
    · obtain ⟨hrest, hstart⟩ := haccept
      rw [sequencerEdge_rest _ ((idle_or_done_iff s).mp hrest), hstart]
      rfl
    · have hstart : s.pins.start = false := Bool.eq_false_iff.mpr fun h => haccept ⟨hrest, h⟩
      rw [sequencerEdge_rest _ ((idle_or_done_iff s).mp hrest), hstart]
      rfl
    · exact sequencerEdge_ip _ (by simp [hip])
    · obtain ⟨h2, h17⟩ := hround
      obtain ⟨i, hcode, hnext, hedge⟩ := sequencerEdge_round_of_code s.pins.start h2 h17
      rw [hedge, roundEdge_of_shift1 ((roundShift_of_code hcode).trans (if_pos hshift)), hnext]
    · obtain ⟨h2, h17⟩ := hround
      obtain ⟨i, hcode, hnext, hedge⟩ := sequencerEdge_round_of_code s.pins.start h2 h17
      rw [hedge, roundEdge_of_shift2 ((roundShift_of_code hcode).trans (if_neg hshift)), hnext]
    · exact sequencerEdge_swap _ (by simp [hswap])
    · exact sequencerEdge_fp _ (by simp [hfp])
    · exact sequencerEdge_reserved _ (by bv_omega)

/-! ## The outputs by the code (R22, R23) -/

theorem busy_eq_true {s : State} (h1 : 1 ≤ s.STATE.toNat) (h19 : s.STATE.toNat ≤ 19) : busy s = true :=
  (busy_iff s).mpr ⟨h1, h19⟩

theorem busy_eq_false {s : State} (h : s.STATE.toNat = 0 ∨ 20 ≤ s.STATE.toNat) : busy s = false := by
  rw [Bool.eq_false_iff, ne_eq, busy_iff]
  omega

theorem done_eq_false {s : State} (h : s.STATE.toNat ≠ 20) : done s = false := by
  rw [Bool.eq_false_iff, ne_eq, done_iff]
  exact h

/-! ## ACCEPT and HOLD (R190, R195, R198) -/

/-- Settles O13: IDLE and DONE are the same transfer, chosen by the level of `start`. -/
theorem idleAndDoneAcceptOrHold : Obligations.IdleAndDoneAcceptOrHold := by
  intro s
  have hidle : exec .idle s = .next (idleEdge s.pins.start s) := rfl
  have hdone : exec .done s = .next (idleEdge s.pins.start s) := rfl
  rw [hidle, hdone]
  refine ⟨fun h => ?_, fun h => ?_⟩ <;> rw [h] <;> exact ⟨rfl, rfl⟩

/-- An edge in FP without reset (R194). -/
theorem step_of_fp {s : State} (hc : s.STATE = 19) (hr : s.pins.rst = false) :
    step s = .next (advancePins (fpEdge s)) := by
  rw [step_of_not_rst hr, sequencerEdge_fp _ (by simp [hc])]

/-- Settles O19: the accepting edge captures the ports, and with `start` held the edge after FP's is an
accepting one. -/
theorem acceptCapturesThePorts : Obligations.AcceptCapturesThePorts := by
  refine ⟨fun s ha => ⟨_, step_of_accepts ha, sameRegisters_advancePins (acceptEdge s), rfl, rfl⟩,
    fun s t hc hr hst hrst hstart => ?_, fun s ha hb hk => ⟨_, step_of_accepts ha, hb, hk, rfl⟩⟩
  obtain rfl : advancePins (fpEdge s) = t := Host.Outcome.next.inj ((step_of_fp hc hr).symm.trans hst)
  exact ⟨done_eq_false (by simp [hc]), rfl, _, step_of_accepts ⟨.inr rfl, hrst, hstart⟩, rfl⟩

/-- A HOLD edge moves the ports on and nothing else. -/
theorem step_of_hold {s : State} (hrest : s.STATE.toNat = 0 ∨ s.STATE.toNat = 20) (hr : s.pins.rst = false)
    (hs : s.pins.start = false) : step s = .next (advancePins s) := by
  rw [step_of_not_rst hr, sequencerEdge_rest _ hrest, hs, idleEdge_false]

/-- A rest code holds every register through one NOP and the `n` that are listed after it. -/
theorem run_holds (n : Nat) : ∀ {s : State}, s.STATE.toNat = 0 ∨ s.STATE.toNat = 20 → s.pins.rst = false →
    s.pins.start = false → QuietFor n s → ∃ t, core.run (n + 1) s = .next t ∧ SameRegisters s t := by
  induction n with
  | zero =>
    intro s hrest hr hs _
    exact ⟨_, run_succ 0 (step_of_hold hrest hr hs), sameRegisters_symm (sameRegisters_advancePins s)⟩
  | succ n ih =>
    intro s hrest hr hs ⟨hlen, hquiet⟩
    obtain ⟨p, ps, hps, ⟨hpr, hpstart⟩, hlen', hquiet'⟩ := forall_take_succ hlen hquiet
    have hpins : (advancePins s).pins = p := nextPins_of_cons hps
    have hinputs : (advancePins s).inputs = ps := by rw [advancePins_inputs, hps, List.tail_cons]
    obtain ⟨t, hrun, ht⟩ := ih (s := advancePins s) hrest (hpins ▸ hpr) (hpins ▸ hpstart)
      (by rw [QuietFor, hinputs]; exact ⟨hlen', hquiet'⟩)
    exact ⟨t, (run_succ (n + 1) (step_of_hold hrest hr hs)).trans hrun,
      sameRegisters_trans (sameRegisters_symm (sameRegisters_advancePins s)) ht⟩

/-- The outputs are functions of the registers (R24). -/
theorem outputs_of_sameRegisters {s t : State} (h : SameRegisters s t) :
    busy s = busy t ∧ done s = done t ∧ result s = result t := by
  obtain ⟨hSTATE, _, _, _, _, _, _, hRES⟩ := h
  exact ⟨by rw [busy, busy, hSTATE], by rw [done, done, hSTATE], hRES⟩

/-- Settles O20: the registers are unchanged, and the outputs are read off them. -/
theorem idleAndDoneHoldIndefinitely : Obligations.IdleAndDoneHoldIndefinitely := by
  intro n s hrest hr hs hq
  have hcode := (idle_or_done_iff s).mp hrest
  obtain ⟨t, hrun, hsame⟩ := run_holds n hcode hr hs hq
  obtain ⟨hbusy, hdone, hresult⟩ := outputs_of_sameRegisters hsame
  exact ⟨t, hrun, hsame, hbusy.symm.trans (busy_eq_false (by omega)), hdone.symm, hresult.symm⟩

/-- Settles O21: neither edge accepts, so both are the one with `start = 0`, and it passes the ports through. -/
theorem startWhileBusyLeavesNoTrace : Obligations.StartWhileBusyLeavesNoTrace := by
  intro s h0 h20 hr
  have hedge (b : Bool) : step { s with pins := { s.pins with start := b } } =
      .next (advancePins (sequencerEdge false s)) := by
    rw [step_of_not_accepts (s := { s with pins := { s.pins with start := b } }) hr
      fun ⟨hrest, _⟩ => not_idle_or_done h0 h20 hrest, sequencerEdge_false_withPins]
    rfl
  exact ⟨(hedge true).trans (hedge false).symm, _, hedge true⟩

/-! ## IP, the rounds, SWAP, FP and the reserved codes (R191 to R194, R197) -/

/-- Settles O14: the halves of `IP(BLK)` and of `PC-1(KEY)` are these slices by definition. -/
theorem ipLoadsTheHalves : Obligations.IpLoadsTheHalves := fun _ => rfl

/-- Settles O15: each micro-op is its round's edge, with the amount of the rotation schedule. -/
theorem roundMicroOpsDoOneFeistelRound : Obligations.RoundMicroOpsDoOneFeistelRound := by
  intro s
  have shift1 (i : Nat) (h : roundShift i = 1) :=
    congrArg (Host.Outcome.next (φ := Fault) (ρ := Refusal)) (roundEdge_of_shift1 h s)
  have shift2 (i : Nat) (h : roundShift i = 2) :=
    congrArg (Host.Outcome.next (φ := Fault) (ρ := Refusal)) (roundEdge_of_shift2 h s)
  exact ⟨shift1 1 rfl, shift1 2 rfl, shift2 3 rfl, shift2 4 rfl, shift2 5 rfl, shift2 6 rfl, shift2 7 rfl, shift2 8 rfl,
    shift1 9 rfl, shift2 10 rfl, shift2 11 rfl, shift2 12 rfl, shift2 13 rfl, shift2 14 rfl, shift2 15 rfl,
    shift1 16 rfl⟩

/-- Settles O16: the exchange reads both halves before the edge, and the codes 18 and 19 are busy ones. -/
theorem swapExchangesTheHalves : Obligations.SwapExchangesTheHalves := by
  refine ⟨fun _ => rfl, fun s hc hr => ?_, fun s hL hR => ⟨swapEdge s, rfl, hR, hL, ?_⟩⟩
  · have h18 : s.STATE.toNat = 18 := by simp [hc]
    have hstep : step s = .next (advancePins (swapEdge s)) := by rw [step_of_not_rst hr, sequencerEdge_swap _ h18]
    exact ⟨busy_eq_true (by omega) (by omega), done_eq_false (by omega), _, hstep,
      sameRegisters_advancePins (swapEdge s), rfl, rfl, fun h => ⟨h.symm, h⟩⟩
  · rw [swapEdge_L, swapEdge_R, hL, hR]
    rfl

/-- ACCEPT and HOLD write no result. -/
@[simp] theorem idleEdge_RES (start : Bool) (s : State) : (idleEdge start s).RES = s.RES := by
  cases start <;> rfl

/-- Among the micro-ops only FP writes the result register (R29, R194). -/
theorem eq_fp_of_exec_RES_ne {i : Instr} {s t : State} (hnop : i ≠ .nop) (hstart : i ≠ .start)
    (hreset : ∀ x, i ≠ .reset x) (h : exec i s = .next t) (hRES : t.RES ≠ s.RES) : i = .fp := by
  cases i with
  | nop => exact absurd rfl hnop
  | start => exact absurd rfl hstart
  | reset x => exact absurd rfl (hreset x)
  | fp => rfl
  | idle | done =>
    cases h
    exact absurd (idleEdge_RES s.pins.start s) hRES
  | _ =>
    cases h
    exact absurd rfl hRES

/-- R194's example: the halves after SWAP and the ciphertext. -/
theorem fpperm_example : fpperm 0x0A4CD99543423234 = 0x85E813540F0AB405 := perm_eq_of_map_desBit (by decide)

/-- Settles O17: FP's transfer, the step in its code, and that no other micro-op writes `RES`. -/
theorem fpWritesTheResult : Obligations.FpWritesTheResult :=
  ⟨fun _ => rfl, fun s hc hr => ⟨_, step_of_fp hc hr, sameRegisters_advancePins (fpEdge s), rfl, rfl⟩,
    fun _ _ _ => eq_fp_of_exec_RES_ne,
    fun s h => ⟨fpEdge s, rfl, (congrArg fpperm h).trans fpperm_example, rfl⟩⟩

/-- An edge in a reserved code without reset (R197). -/
theorem step_of_reserved {s : State} (hc : 21 ≤ s.STATE.toNat) (hr : s.pins.rst = false) :
    step s = .next (advancePins (reservedEdge s)) := by
  rw [step_of_not_rst hr, sequencerEdge_reserved _ hc]

/-- Settles O18: the three rows are one transfer, and after any step the code is legal. -/
theorem reservedCodesGoToIdle : Obligations.ReservedCodesGoToIdle := by
  refine ⟨fun _ _ => ⟨rfl, rfl, rfl⟩, fun s hc hr => ?_,
    fun s hc hr _ => ⟨_, step_of_reserved (by simp [hc]) hr, rfl, rfl, rfl⟩,
    fun _ _ hst => Nat.lt_succ_of_le (step_legal hst)⟩
  exact ⟨busy_eq_false (by omega), done_eq_false (by omega), _, step_of_reserved hc hr,
    sameRegisters_advancePins (reservedEdge s), rfl, rfl⟩

/-! ## One operation (R196, R201) -/

/-- Settles O34: the operation's code says which clause of the datapath invariant applies. -/
theorem oneOperationComputesDesEncrypt : Obligations.OneOperationComputesDesEncrypt := by
  intro s ha hq
  refine ⟨?_, fun i h1 h16 => ?_, ?_, ?_⟩
  · obtain ⟨t, hrun, hcode, _⟩ := operation_progress ha hq (k := 1) (by omega)
    exact ⟨t, hrun, (code_eq_iff t.STATE (by decide)).mpr hcode⟩
  · obtain ⟨t, hrun, hcode, hblk, hkey, hround, _⟩ := operation_progress ha hq (k := i + 1) (by omega)
    obtain ⟨hLR, _⟩ := hround i h16 hcode
    exact ⟨t, hrun, by rw [hLR, hblk, hkey], hcode⟩
  · obtain ⟨t, hrun, hcode, _⟩ := operation_progress ha hq (k := 18) (by omega)
    exact ⟨t, hrun, (code_eq_iff t.STATE (by decide)).mpr hcode⟩
  · obtain ⟨t, hrun, hcode, hblk, hkey, _, _, hres⟩ := operation_progress ha hq (k := 19) le_rfl
    exact ⟨t, hrun, (code_eq_iff t.STATE (by decide)).mpr hcode, by rw [hres hcode, hblk, hkey]⟩

/-- A cycle of a `NOP` that has cycles left lets the operation go on. -/
theorem hostCycle_nop {h : HostRun} {b : Block} {k : MasterKey} {c n : Nat} {p : List HostStmt}
    (ho : OperationAt b k c h.engine) (h1 : 1 ≤ c) (h19 : c ≤ 19) (hp : h.program = .nop (n + 1) :: p) :
    ∃ t, hostCycle h = .next { h with engine := t, program := .nop n :: p } ∧ OperationAt b k (c + 1) t := by
  obtain ⟨t, hst, hdrive⟩ := driveCycle_next false false (.nop n :: p) h
  refine ⟨t, ?_, OperationAt.succ (s := { h.engine with pins := ⟨false, false, h.blockIn, h.keyIn⟩ }) ho hst rfl h1 h19⟩
  cases h
  cases hp
  exact hdrive

/-- `NOP n` takes the operation `n` codes on and is then finished. -/
theorem hostCycles_nop {b : Block} {k : MasterKey} {p : List HostStmt} (n : Nat) :
    ∀ {h : HostRun} {c : Nat}, OperationAt b k c h.engine → 1 ≤ c → c + n ≤ 20 → h.program = .nop n :: p →
      ∃ t, hostCycles n h = .next (settleStmts { h with engine := t } p) ∧ OperationAt b k (c + n) t := by
  induction n with
  | zero =>
    intro h c ho _ _ hp
    have hsettle : settle h = settleStmts h p := by rw [settle, hp, settleStmts]
    exact ⟨h.engine, congrArg _ hsettle, ho⟩
  | succ n ih =>
    intro h c ho h1 hcn hp
    obtain ⟨t, hc, ht⟩ := hostCycle_nop ho h1 (by omega) hp
    obtain ⟨u, hcs, hu⟩ := ih (h := { h with engine := t, program := .nop n :: p }) ht (by omega) (by omega) rfl
    refine ⟨u, (hostCycles_succ n hc).trans (hcs.trans ?_), by rwa [show c + (n + 1) = c + 1 + n by omega]⟩
    exact congrArg _ (settleStmts_program p { h with engine := u } _)

/-- Settles O40: START begins the operation in code 1, and nineteen NOPs take it to DONE. -/
theorem startAndNineteenNopsEncrypt : Obligations.StartAndNineteenNopsEncrypt := by
  intro h b k hrest hp
  obtain ⟨t, hc, ht⟩ := hostCycle_start hrest hp
  obtain ⟨u, hcs, hu⟩ := hostCycles_nop 19
    (h := { h with engine := t, blockIn := b, keyIn := k, program := [.nop 19] }) ht le_rfl le_rfl rfl
  exact ⟨_, (hostCycles_succ 19 hc).trans hcs, rfl, hu.done_eq_true, hu.result_eq⟩

/-! ## The inversion law (R182, R185) -/

/-- Settles O48: the left output is the right input, so the same `f` cancels in the XOR. -/
theorem feistelRoundIsInvertible : Obligations.FeistelRoundIsInvertible :=
  fun l r k => ⟨rfl, bitwiseXor_cancel l (feistelF r k)⟩

/-- The round with the same key undoes a round on exchanged halves. -/
theorem feistel_feistel_swap (l r : HalfBlock) (k : RoundKey) :
    feistel (feistel l r k).2 (feistel l r k).1 k = (r, l) :=
  congrArg (Prod.mk r) (bitwiseXor_cancel l (feistelF r k))

theorem feistelRounds_cons (l r : HalfBlock) (k : RoundKey) (ks : List RoundKey) :
    feistelRounds l r (k :: ks) = feistelRounds (feistel l r k).1 (feistel l r k).2 ks := rfl

/-- The rounds with the reversed key list undo the rounds on exchanged halves. -/
theorem feistelRounds_reverse (ks : List RoundKey) (l r : HalfBlock) :
    feistelRounds (feistelRounds l r ks).2 (feistelRounds l r ks).1 ks.reverse = (r, l) := by
  induction ks generalizing l r with
  | nil => rfl
  | cons k ks ih =>
    rw [feistelRounds_cons l r, List.reverse_cons, feistelRounds_append, ih]
    exact feistel_feistel_swap l r k

/-- Settles O53: IP takes off FP, the final swap exchanges the halves for the way back, and FP takes off IP. -/
theorem reversedKeyListInvertsThePipeline : Obligations.ReversedKeyListInvertsThePipeline := by
  intro b ks
  rw [desCore, desCore, ipperm_fpperm, ipsplit_preOutput, feistelRounds_reverse, preOutput, ipsplit_append,
    fpperm_ipperm]

/-! ## The complementation law (R185) -/

theorem ipsplit_not (w : Block) : ipsplit (~~~w) = (~~~(ipsplit w).1, ~~~(ipsplit w).2) :=
  Prod.ext (extractLsb'_not w 32 32 (by decide)) (extractLsb'_not w 0 32 (by decide))

theorem pc1split_not (key : MasterKey) : pc1split (~~~key) = (~~~(pc1split key).1, ~~~(pc1split key).2) := by
  rw [pc1split, perm_not]
  exact Prod.ext (extractLsb'_not _ 28 28 (by decide)) (extractLsb'_not _ 0 28 (by decide))

theorem roundkey_not (c d : KeyHalf) : roundkey (~~~c) (~~~d) = ~~~(roundkey c d) := by
  rw [roundkey, append_not, perm_not]
  rfl

theorem keyschedFrom_not (c d : KeyHalf) (ns : List Nat) :
    keyschedFrom (~~~c) (~~~d) ns = (keyschedFrom c d ns).map (~~~·) := by
  induction ns generalizing c d with
  | nil => rfl
  | cons n ns ih => rw [keyschedFrom, rotl28_not, rotl28_not, roundkey_not, ih, keyschedFrom, List.map_cons]

theorem keysched_not (key : MasterKey) : keysched (~~~key) = (keysched key).map (~~~·) := by
  rw [keysched, pc1split_not]
  exact keyschedFrom_not _ _ _

/-- The two complements meet in the XOR of `f` and cancel there. -/
theorem feistelF_not (r : HalfBlock) (k : RoundKey) : feistelF (~~~r) (~~~k) = feistelF r k := by
  rw [feistelF, expand, perm_not, bitwiseXor_not_not]
  rfl

theorem feistel_not (l r : HalfBlock) (k : RoundKey) :
    feistel (~~~l) (~~~r) (~~~k) = (~~~(feistel l r k).1, ~~~(feistel l r k).2) := by
  rw [feistel, feistelF_not, bitwiseXor_not_left]
  rfl

theorem feistelRounds_not (l r : HalfBlock) (ks : List RoundKey) :
    feistelRounds (~~~l) (~~~r) (ks.map (~~~·)) = (~~~(feistelRounds l r ks).1, ~~~(feistelRounds l r ks).2) := by
  induction ks generalizing l r with
  | nil => rfl
  | cons k ks ih => rw [List.map_cons, feistelRounds_cons, feistel_not, ih, feistelRounds_cons]

theorem preOutput_not (l r : HalfBlock) : preOutput (~~~l, ~~~r) = ~~~(preOutput (l, r)) := append_not r l

theorem desCore_not (b : Block) (ks : List RoundKey) : desCore (~~~b) (ks.map (~~~·)) = ~~~(desCore b ks) := by
  rw [desCore, ipperm, perm_not, ipsplit_not, feistelRounds_not, preOutput_not, fpperm, perm_not]
  rfl

/-- Settles O54: the schedule complements its keys, and every unit carries or cancels the complements. -/
theorem complementationLaw : Obligations.ComplementationLaw := by
  intro b k
  rw [desEncrypt, keysched_not, desCore_not, desEncrypt]

end Sys2Proof.Machine
end

section
/-! PROOFS. The absence of faults and refusals. The statement of family 60_exceptions is settled from the model's laws of
one instruction and of one step. -/

namespace Sys2Proof.Machine

/-- Settles O9: every instruction answers a next state, and an edge does with reset or without, so the values on the ports
do not matter (R200, R300). -/
theorem nothingFaultsOrIsRefused : Obligations.NothingFaultsOrIsRefused :=
  ⟨exec_next, fun s p => step_next { s with pins := p }⟩

end Sys2Proof.Machine
end

section
/-! PROOFS. Runs under listed inputs, the reset, and the timing of one and of two operations. The statements of family
70_reset_and_hazards are settled from these. -/

namespace Sys2Proof.Machine

/-! ## Runs under listed inputs (R48) -/

/-- `n` steps use up the first `n` listed inputs. -/
theorem run_inputs {n : Nat} {s t : State} (h : core.run n s = .next t) : t.inputs = s.inputs.drop n := by
  induction n generalizing s with
  | zero =>
    cases h
    rfl
  | succ n ih =>
    obtain ⟨u, hu⟩ := step_next s
    obtain ⟨_, hinputs, _⟩ := step_ports hu
    rw [run_succ n hu] at h
    rw [ih h, hinputs, List.drop_tail]

/-- What holds after edge `k`, and what every edge keeps whose inputs meet `P`, lasts as long as the listed inputs meet
`P`. -/
theorem run_keeps_while {P : Pins → Prop} {I : State → Prop}
    (hstep : ∀ t u, I t → P t.pins → step t = .next u → I u) {k n : Nat} {s t : State}
    (hrun : core.run (k + 1) s = .next t) (hI : I t) (hlen : k + n ≤ s.inputs.length)
    (hP : ∀ p ∈ (s.inputs.drop k).take n, P p) : ∃ u, core.run (k + n + 1) s = .next u ∧ I u := by
  induction n with
  | zero => exact ⟨t, hrun, hI⟩
  | succ n ih =>
    obtain ⟨u, hu, hIu⟩ := ih (by omega) fun p hp => hP p (List.take_subset_take_left _ n.le_succ hp)
    obtain ⟨v, hv⟩ := step_next u
    have hinput : ((s.inputs.drop k).take (n + 1))[n]? = some u.pins := by
      rw [List.getElem?_take_of_lt n.lt_succ_self, List.getElem?_drop]
      exact run_pins (by omega) hu
    exact ⟨v, run_step hu hv, hstep u v hIu (hP _ (List.mem_of_getElem? hinput)) hv⟩

theorem noResetFor_mono {m n : Nat} {s : State} (hmn : m ≤ n) (h : NoResetFor n s) : NoResetFor m s := by
  obtain ⟨hlen, hrst⟩ := h
  exact ⟨hmn.trans hlen, fun p hp => hrst p (List.take_subset_take_left _ hmn hp)⟩

/-- After `k` of the steps a host without reset has listed, the rest of its inputs remains. -/
theorem noResetFor_of_run {k n : Nat} {s t : State} (h : NoResetFor (k + n) s) (hrun : core.run k s = .next t) :
    NoResetFor n t := by
  obtain ⟨hlen, hrst⟩ := h
  rw [NoResetFor, run_inputs hrun, List.length_drop, List.take_drop]
  exact ⟨by omega, fun p hp => hrst p (List.mem_of_mem_drop hp)⟩

/-! ## Reset (R400, R402, R403) -/

/-- Settles O12: the RESET command is the reset edge. -/
theorem resetCommandClearsEveryRegister : Obligations.ResetCommandClearsEveryRegister := exec_reset

/-- The reset registers last through another reset edge, and through IDLE's HOLD. -/
theorem step_keeps_resetRegisters {t u : State} (h : SameRegisters t State.reset)
    (hp : t.pins.rst = true ∨ t.pins.start = false) (hst : step t = .next u) : SameRegisters u State.reset := by
  cases hr : t.pins.rst with
  | true => exact sameRegisters_reset_of_rst hr hst
  | false =>
    have hstart : t.pins.start = false := hp.resolve_left (by simp [hr])
    have ⟨hidle, _⟩ := h
    rw [step_of_hold ((idle_or_done_iff t).mp (.inl hidle)) hr hstart] at hst
    cases hst
    exact sameRegisters_trans (sameRegisters_advancePins t) h

/-- After a reset edge the registers keep their reset values while the host holds `rst = 1` or leaves `start` at 0. -/
theorem run_keeps_resetRegisters {n : Nat} {s : State} (hr : s.pins.rst = true) (hlen : n ≤ s.inputs.length)
    (hp : ∀ p ∈ s.inputs.take n, p.rst = true ∨ p.start = false) :
    ∃ t, core.run (n + 1) s = .next t ∧ SameRegisters t State.reset := by
  obtain ⟨t, ht⟩ := step_next s
  have h := run_keeps_while (k := 0) (fun _ _ => step_keeps_resetRegisters) (run_succ 0 ht)
    (sameRegisters_reset_of_rst hr ht) (by omega) hp
  rwa [Nat.zero_add] at h

/-- Settles O28: without a start the reset registers last, and the outputs are read off them. -/
theorem resetAbandonsTheOperation : Obligations.ResetAbandonsTheOperation := by
  intro n s _ _ hr hlen hstart
  obtain ⟨t, hrun, hsame⟩ := run_keeps_resetRegisters hr hlen fun p hp => .inr (hstart p hp)
  obtain ⟨hbusy, hdone, hresult⟩ := outputs_of_sameRegisters hsame
  obtain ⟨hcode, _⟩ := hsame
  exact ⟨t, hrun, hresult, hcode, hbusy, hdone⟩

/-- Settles O29: further reset edges keep the reset registers, whose code selects the micro-op of IDLE. -/
theorem resetHoldsWhileRstIsHigh : Obligations.ResetHoldsWhileRstIsHigh := by
  intro n s hr hlen hrst
  obtain ⟨t, hrun, hsame⟩ := run_keeps_resetRegisters hr hlen fun p hp => .inl (hrst p hp)
  refine ⟨t, hrun, hsame, fun hlow => stepRunsTheDecodedMicroOp t .idle hlow ?_⟩
  obtain ⟨hcode, _⟩ := hsame
  rw [hcode]
  rfl

/-! ## The timing of one operation (R410, R411) -/

/-- `k` edges after the accept the engine stands in code `k + 1` of the operation on the accepted ports. -/
theorem run_operationAt {s : State} (ha : Accepts s) (hq : NoResetFor 19 s) {k : Nat} (hk : k ≤ 19) :
    ∃ t, core.run (k + 1) s = .next t ∧ OperationAt s.pins.blockIn s.pins.keyIn (k + 1) t :=
  operation_progress ha hq hk

theorem OperationAt.busy_iff_code {b : Block} {k : MasterKey} {c : Nat} {s : State} (h : OperationAt b k c s) :
    busy s = true ↔ 1 ≤ c ∧ c ≤ 19 := by
  obtain ⟨rfl, _⟩ := h
  exact busy_iff s

theorem OperationAt.done_iff_code {b : Block} {k : MasterKey} {c : Nat} {s : State} (h : OperationAt b k c s) :
    done s = true ↔ c = 20 := by
  obtain ⟨rfl, _⟩ := h
  exact done_iff s

/-- A finished operation stays finished through an edge with neither a reset nor a start (R195). -/
theorem OperationAt.hold {b : Block} {k : MasterKey} {t u : State} (h : OperationAt b k 20 t)
    (hp : t.pins.rst = false ∧ t.pins.start = false) (hst : step t = .next u) : OperationAt b k 20 u := by
  obtain ⟨hr, hstart⟩ := hp
  have ⟨hcode, _⟩ := h
  rw [step_of_hold (.inr hcode) hr hstart] at hst
  cases hst
  exact h

/-- Settles O35: the flags are functions of the operation's code, and the finished operation lasts through quiet
edges. -/
theorem doneRisesNineteenEdgesAfterTheAccept : Obligations.DoneRisesNineteenEdgesAfterTheAccept := by
  intro s ha hq
  refine ⟨fun k hk => ?_, fun m hlen hquiet => ?_⟩
  · obtain ⟨t, hrun, ht⟩ := run_operationAt ha hq hk
    have ⟨hcode, _⟩ := ht
    exact ⟨t, hrun, hcode, ht.busy_iff_code.trans (by omega), ht.done_iff_code.trans (by omega)⟩
  · obtain ⟨t, hrun, ht⟩ := run_operationAt ha hq le_rfl
    obtain ⟨u, hrun', hu⟩ := run_keeps_while (fun _ _ => OperationAt.hold) hrun ht hlen hquiet
    exact ⟨u, by rwa [show 20 + m = 19 + m + 1 by omega], hu.done_eq_true, hu.result_eq⟩

/-- Settles O36: only the codes 0 and 20 accept, and the codes 1 to 19 come before code 20. -/
theorem theNextAcceptIsTwentyEdgesLater : Obligations.TheNextAcceptIsTwentyEdgesLater := by
  intro s ha hq
  refine ⟨fun k h1 h19 => ?_, ?_⟩
  · obtain ⟨k, rfl⟩ := Nat.exists_eq_add_of_le' h1
    obtain ⟨t, hrun, hcode, _⟩ := run_operationAt ha hq (k := k) (by omega)
    exact ⟨t, hrun, fun ⟨hrest, _⟩ => by omega⟩
  · obtain ⟨t, hrun, hcode, _⟩ := run_operationAt ha hq le_rfl
    exact ⟨t, hrun, (code_eq_iff t.STATE (by decide)).mpr hcode, fun hr hstart => ⟨.inr hcode, hr, hstart⟩⟩

/-! ## Two operations with `start` held (R414) -/

/-- With `start` held the first operation ends in a state that accepts the ports then driven. -/
theorem run_accepts_again {s : State} {second : Pins} (ha : Accepts s) (hq : NoResetFor 39 s)
    (hstart : ∀ p ∈ s.inputs.take 20, p.start = true) (hsecond : s.inputs[19]? = some second) :
    ∃ t, core.run 20 s = .next t ∧ OperationAt s.pins.blockIn s.pins.keyIn 20 t ∧ t.pins = second ∧ Accepts t ∧
      NoResetFor 19 t := by
  obtain ⟨t, hrun, ht⟩ := run_operationAt ha (noResetFor_mono (by omega) hq) le_rfl
  have ⟨hlen, _⟩ := hq
  have ⟨hcode, _⟩ := ht
  have hpins : s.inputs[19]? = some t.pins := run_pins (by omega) hrun
  have hinput : (s.inputs.take 20)[19]? = some t.pins := by rwa [List.getElem?_take_of_lt (by omega)]
  exact ⟨t, hrun, ht, Option.some.inj (hpins.symm.trans hsecond),
    ⟨.inr hcode, rst_false_of_noResetFor hq (by omega) hrun, hstart _ (List.mem_of_getElem? hinput)⟩,
    noResetFor_of_run (noResetFor_mono (by omega) hq) hrun⟩

/-- Settles O37: the state that ends the first operation accepts the second one, whose codes come twenty edges later. -/
theorem heldStartFlagsEachResultForOneCycle : Obligations.HeldStartFlagsEachResultForOneCycle := by
  intro s second ha hq hstart hsecond
  obtain ⟨t, hrun, ht, rfl, hagain, hqt⟩ := run_accepts_again ha hq hstart hsecond
  have later {j : Nat} (hj : j ≤ 19) :
      ∃ u, core.run (20 + (j + 1)) s = .next u ∧ OperationAt t.pins.blockIn t.pins.keyIn (j + 1) u := by
    rw [run_add 20 (j + 1) hrun]
    exact run_operationAt hagain hqt hj
  refine ⟨fun k hk => ?_, ⟨t, hrun, ht.result_eq⟩, ?_, ?_⟩
  · rcases Nat.lt_or_ge k 20 with hlt | hge
    · obtain ⟨u, hu, hop⟩ := run_operationAt ha (noResetFor_mono (by omega) hq) (k := k) (by omega)
      exact ⟨u, hu, hop.done_iff_code.trans (by omega)⟩
    · obtain ⟨j, rfl⟩ := Nat.exists_eq_add_of_le hge
      obtain ⟨u, hu, hop⟩ := later (j := j) (by omega)
      exact ⟨u, hu, hop.done_iff_code.trans (by omega)⟩
  · obtain ⟨u, hu, hcode, hblk, hkey, _⟩ := later (j := 0) (by omega)
    exact ⟨u, hu, (code_eq_iff u.STATE (by decide)).mpr hcode, hblk, hkey⟩
  · obtain ⟨u, hu, hop⟩ := later (j := 19) le_rfl
    exact ⟨u, hu, hop.done_eq_true, hop.result_eq⟩

end Sys2Proof.Machine
end
